-- ==== Sys2Proof/Word.lean ====
section
/-! DEFINITION. The three widths of the core's values (`spec/00_scope.md` R7, R8): bytes on the link and command
words are `u8`, the CRC and the stored checksum are `u16`, a Decoded State field and a response are `u32`. -/

namespace Sys2Proof

/-- A `u8` (R7, R8): one byte of the link, of the scratch buffer, or a command word. -/
abbrev Byte := BitVec 8

/-- A `u16` (R7, R8): the CRC register and the stored checksum. -/
abbrev Word16 := BitVec 16

/-- A `u32` (R7, R8): a Decoded State field's bit pattern and a response word. -/
abbrev Word32 := BitVec 32

end Sys2Proof
end

