-- ==== Sys2Proof/Config.lean ====
section
/-! DEFINITION. What the hardware fixes (`spec/00_scope.md` R6: "None can be configured at run time") and the values
the spec leaves open, as constants without a body. -/

namespace Sys2Proof.Config

/-! ## The fixed constants of R6 -/

/-- `SYNC_MARKER`: "the byte that ends the synchronization search" (R6). -/
@[simp] abbrev syncMarker : Byte := 0xFA#8

/-- `AVAIL_THRESHOLD`: a search is attempted only when `SrcAvail() > 4` (R6). -/
@[simp] abbrev availThreshold : Nat := 4

/-- `SYNC_SCAN_MAX`: "the most bytes one search reads" (R6; fixed at 6 by D20). -/
@[simp] abbrev syncScanMax : Nat := 6

/-- `RECORD_LEN`: "bytes read after the marker into the scratch buffer" (R6; conflict C1 resolved to 41). -/
@[simp] abbrev recordLen : Nat := 41

/-- `FIELD_COUNT`: "binary32 fields per record" (R6). -/
@[simp] abbrev fieldCount : Nat := 9

/-- `FIELD_BASE`: "record offset of field 0" (R6); the `HEADER_LEN` = 3 header bytes stand before it. -/
@[simp] abbrev fieldBase : Nat := 3

/-- `FIELD_STRIDE`: "bytes per field" (R6). -/
@[simp] abbrev fieldStride : Nat := 4

/-- `CRC_LEN`: "record bytes covered by the checksum, offsets 0..38" (R6). -/
@[simp] abbrev crcLen : Nat := 39

/-- `CK_HI_OFF`: "record offset of the checksum's high byte" (R6). -/
@[simp] abbrev ckHiOff : Nat := 39

/-- `CK_LO_OFF`: "record offset of the checksum's low byte" (R6). -/
@[simp] abbrev ckLoOff : Nat := 40

/-- `CRC_INIT`: "the CRC's starting value" (R6, R142). -/
@[simp] abbrev crcInit : Word16 := 0x0000#16

/-! ## Open values: no body, so that nothing can be proved of them -/

/-- `FIELD_INIT[0..8]`, the open parameter of R27 and D6: what `x` holds from reset until the first successful
commit. "The model must not assume zero" (R27). Assumption 1. -/
opaque fieldInit : Fin fieldCount → Word32

/-- A scratch-buffer cell that nothing has written since the last reset: "unspecified, any value" (R28, R36, D7).
The arguments are the number of resets so far and the cell's address. Assumption 2. -/
opaque unspecifiedByte : Nat → Nat → Byte

/-- The response register after a reset: "unspecified; never read before written" (R29, R36, D5). The argument is
the number of resets so far. Assumption 3. -/
opaque unspecifiedResponse : Nat → Word32

end Sys2Proof.Config
end

