-- ==== Sys2Proof/Syntax.lean ====
section
/-! DEFINITION. The command set: one constructor of `Instr` per row of `spec/opcode_table.json`
(`spec/30_encoding.md` R79), the nine field names of the Decoded State (`spec/10_state.md` R25), and the assembler's
source form of a command (R81). -/

namespace Sys2Proof

/-- The nine scalar fields of the Decoded State, in the index order 0..8 of R25. -/
inductive Field where
  | yaw | pitch | roll
  | rateX | rateY | rateZ
  | accX | accY | accZ
  deriving DecidableEq, Repr

/-- The ten commands of R79. The core "has no instruction set. Its 'instructions' are the commands of its command
interface" (R2). No command has a register, immediate or address operand (R23, R77): the GET index is part of the
word, so each row of the table is a constructor without arguments. -/
inductive Instr where
  /-- 0x00 UPDATE: one poll cycle (R100). -/
  | update
  /-- 0x10 GET YAW (R161). -/
  | getYaw
  /-- 0x11 GET PITCH (R162). -/
  | getPitch
  /-- 0x12 GET ROLL (R163). -/
  | getRoll
  /-- 0x13 GET RATEX (R164). -/
  | getRatex
  /-- 0x14 GET RATEY (R165). -/
  | getRatey
  /-- 0x15 GET RATEZ (R166). -/
  | getRatez
  /-- 0x16 GET ACCX (R167). -/
  | getAccx
  /-- 0x17 GET ACCY (R168). -/
  | getAccy
  /-- 0x18 GET ACCZ (R169). -/
  | getAccz
  deriving DecidableEq, Repr

/-- The assembler's source form of a command (R81): `UPDATE`, or `GET <f>` with `<f>` a field's name or a decimal
index. The index is any number here; `AsmCommand.wellFormed` is the check that it is one of 0..8. -/
inductive AsmCommand where
  /-- `UPDATE` -/
  | update
  /-- `GET YAW`, ..., `GET ACCZ` -/
  | get (f : Field)
  /-- `GET <k>` -/
  | getIndex (k : Nat)
  deriving DecidableEq, Repr

end Sys2Proof
end

