-- ==== Sys2Proof/WellFormed.lean ====
section
/-! DEFINITION. Well-formedness of the three things a caller or a Byte Source writes down: an instruction, an
assembler command (R81) and a 41-byte record (R70). -/

namespace Sys2Proof

/-- Every `Instr` is well-formed: no command carries an operand that could be out of range (R23, R77, R80). -/
def Instr.wellFormed : Instr → Bool
  | .update => true
  | .getYaw => true
  | .getPitch => true
  | .getRoll => true
  | .getRatex => true
  | .getRatey => true
  | .getRatez => true
  | .getAccx => true
  | .getAccy => true
  | .getAccz => true

/-- `GET <f>` takes "a decimal index 0..8" (R81); 9..15 are reserved encodings (R63, R78). -/
def AsmCommand.wellFormed : AsmCommand → Bool
  | .update => true
  | .get _ => true
  | .getIndex k => decide (k < Config.fieldCount)

/-- A record is "the 41 bytes that follow the sync marker" (R10, R70). Their values are free (R72, R73, R74). -/
def recordWellFormed (r : List Byte) : Bool :=
  r.length == Config.recordLen

end Sys2Proof
end

