-- ==== Sys2Proof/Decode.lean ====
section
/-! DEFINITION. The command decoder and encoder of `spec/30_encoding.md` (R77, R78, R79, R80, R81). The decoder is
total on any bytes and rejects by name. -/

namespace Sys2Proof

/-- Why the decoder gives no instruction. -/
inductive Reject where
  /-- There is no byte to read a command word from. -/
  | noWord
  /-- The word is one of the 246 reserved words (R78). -/
  | reservedCommand (c : Byte)
  deriving DecidableEq, Repr

/-- `op = c[7:4]` (R77). -/
def commandOp (c : Byte) : BitVec 4 := c.extractLsb' 4 4

/-- `k = c[3:0]` (R77). -/
def commandIndex (c : Byte) : BitVec 4 := c.extractLsb' 0 4

/-- The GET command of a field index 0..8 (R79); none for 9..15, which are reserved (R78). -/
def getOfIndex : Nat → Option Instr
  | 0 => some .getYaw
  | 1 => some .getPitch
  | 2 => some .getRoll
  | 3 => some .getRatex
  | 4 => some .getRatey
  | 5 => some .getRatez
  | 6 => some .getAccx
  | 7 => some .getAccy
  | 8 => some .getAccz
  | _ => none

/-- The GET command of a field (R79). -/
def getOfField : Field → Instr
  | .yaw => .getYaw
  | .pitch => .getPitch
  | .roll => .getRoll
  | .rateX => .getRatex
  | .rateY => .getRatey
  | .rateZ => .getRatez
  | .accX => .getAccx
  | .accY => .getAccy
  | .accZ => .getAccz

/-- The decoding of R77: `op = 0` and `k = 0` is UPDATE, `op = 1` and `k <= 8` is GET k, anything else is reserved. -/
def decodeWord (c : Byte) : Except Reject Instr :=
  if commandOp c = 0x0#4 ∧ commandIndex c = 0x0#4 then
    .ok .update
  else if commandOp c = 0x1#4 then
    match getOfIndex (commandIndex c).toNat with
    | some i => .ok i
    | none => .error (.reservedCommand c)
  else
    .error (.reservedCommand c)

/-- Decoding a byte sequence: "Every command is one 8-bit word" (R80), so one byte is read and the rest is left. -/
def decode : List Byte → Except Reject (Instr × List Byte)
  | [] => .error .noWord
  | c :: rest =>
    match decodeWord c with
    | .ok i => .ok (i, rest)
    | .error r => .error r

/-- The `op` nibble of a command (R77, R79). -/
def Instr.opField : Instr → BitVec 4
  | .update => 0x0#4
  | .getYaw => 0x1#4
  | .getPitch => 0x1#4
  | .getRoll => 0x1#4
  | .getRatex => 0x1#4
  | .getRatey => 0x1#4
  | .getRatez => 0x1#4
  | .getAccx => 0x1#4
  | .getAccy => 0x1#4
  | .getAccz => 0x1#4

/-- The `k` nibble of a command: the field index of a GET (R77, R79). -/
def Instr.indexField : Instr → BitVec 4
  | .update => 0x0#4
  | .getYaw => 0x0#4
  | .getPitch => 0x1#4
  | .getRoll => 0x2#4
  | .getRatex => 0x3#4
  | .getRatey => 0x4#4
  | .getRatez => 0x5#4
  | .getAccx => 0x6#4
  | .getAccy => 0x7#4
  | .getAccz => 0x8#4

/-- The command word of an instruction: `op` above `k` (R77, R79). -/
def encode (i : Instr) : Byte := i.opField ++ i.indexField

/-- The assembler of R81: `UPDATE`, `GET <name>` and `GET <decimal index>`; an index above 8 has no word. -/
def assemble : AsmCommand → Option Instr
  | .update => some .update
  | .get f => some (getOfField f)
  | .getIndex k => getOfIndex k

/-- The bytes of an opcode-table word: its low `nbits` bits, eight at a time, the lowest first. -/
def tableBytes (nbits w : Nat) : List Byte :=
  (List.range ((nbits + 7) / 8)).map fun n => BitVec.ofNat 8 ((w % 2 ^ nbits) >>> (8 * n))

/-- What the decoder reads from an opcode-table word of `nbits` bits. A command is one byte (R80), so there is one
byte order only. -/
def decodeTableWord (nbits w : Nat) : Option Instr :=
  match decode (tableBytes nbits w) with
  | .ok (i, _) => some i
  | .error _ => none

end Sys2Proof
end

