-- ==== Sys2Proof/Machine/State.lean ====
section
/-! DEFINITION. The machine's state as plain data: the core's own state (`spec/10_state.md` R20), the environment its
rules read (the Byte Source backlog R30, the caller's commands R75, and whose turn it is R3, R52), and the ghosts that
exist for claims only (R31). With it the ways a step can stop, and the state after reset (R36). -/

namespace Sys2Proof.Machine

/-- The sequencing state, 50 values (R21). It "is what the core has instead of a program counter". -/
inductive Phase where
  /-- `IDLE`: no command is in progress. -/
  | idle
  /-- `AVAIL`: an UPDATE was accepted and the threshold has not been evaluated. -/
  | avail
  /-- `SYNC(i)`, `i` in 0..5: `i` bytes of the search have been read, none the marker. -/
  | sync (i : Fin 6)
  /-- `READ(j)`, `j` in 0..40: the marker was found and `j` record bytes are in `buf[0..j-1]`. -/
  | read (j : Fin 41)
  /-- `CHECK`: all 41 record bytes are in `buf`. -/
  | check
  deriving DecidableEq, Repr

/-- The Decoded State `x[0..8]`: nine binary32 bit patterns under the field names of R25. -/
structure DecodedState where
  yaw : Word32
  pitch : Word32
  roll : Word32
  rateX : Word32
  rateY : Word32
  rateZ : Word32
  accX : Word32
  accY : Word32
  accZ : Word32
  deriving DecidableEq, Repr

/-- The contents of the scratch buffer `buf[0..40]` (R28): the cells written since the last reset, as address and
byte pairs, addresses strictly rising (`Memory.wf`). They stay between commands (Assumption 21). A cell that is not listed has never been written in this life of
the decoder; it reads as the open value `Config.unspecifiedByte` (R36). -/
abbrev Memory := List Host.Cell

/-- The four outcomes an UPDATE can end in (R31, R200). -/
inductive UpdateOutcome where
  | noData
  | noSync
  | badChecksum
  | decoded
  deriving DecidableEq, Repr

/-- Who moves next (R3: "three agents, and each can take a step on its own"; "arrivals may interleave with the
decoder's steps in any order"). Assumption 4. -/
inductive Turn where
  /-- The decoder: one transition, or the acceptance of a presented command. -/
  | decoder
  /-- The Byte Source: it appends these bytes (R52). -/
  | arrive (bytes : List Byte)
  /-- The caller: it has this command word to present after those it already has (R75). -/
  | present (c : Byte)
  /-- The reset event, which "may occur at any point" (R230). -/
  | reset
  deriving DecidableEq, Repr

/-- The machine: the core, its environment and the model's own records. -/
structure State where
  /-- `phase` (R20, R21). -/
  phase : Phase
  /-- `sync`, the Sync State, the core's only flag (R20, R24). -/
  sync : Bool
  /-- `buf[0..40]`, the scratch buffer (R20, R28). -/
  buf : Memory
  /-- `x[0..8]`, the Decoded State (R20, R25). -/
  x : DecodedState
  /-- `rsp`, the response register (R20, R29). -/
  rsp : Word32
  /-- Environment: the Byte Source backlog `src`, oldest byte first (R30). -/
  src : List Byte
  /-- Environment: the command words the caller has still to have accepted, in the order it issues them (R64, R75).
  The first is the one presented; while the core is busy it is held. Assumption 5. -/
  cmds : List Byte
  /-- Environment: the turns still scheduled; once the list is empty every turn is the decoder's. Assumption 4. -/
  agenda : List Turn
  /-- Ghost: how the last UPDATE of this life of the decoder ended (R31). Not hardware state. Assumption 6. -/
  outcome : Option UpdateOutcome
  /-- Record: the responses the caller has received, oldest first (R75, R76: "the caller receives `v`").
  Assumption 7. -/
  responses : List Word32
  /-- The model's own counter of reset events, which picks the open values of R36. Assumption 8. -/
  resets : Nat
  deriving DecidableEq, Repr

/-- The machine has no fault: "The core raises no exception"; "No input of any value makes the core trap, halt or
enter an error state" (R201), and "No behaviour of this core is treated as `fault`" (`93_implementation_defined.md`).
So the type has no constructor, and nothing can raise one. Safe: no step stops with a fault. -/
inductive Fault where
  deriving DecidableEq, Repr

/-- Why a step has no meaning. -/
inductive Refusal where
  /-- Raised by an arm of `exec` that has no meaning yet. Safe: the step stops. -/
  | notModelled (mnemonic : String)
  /-- `refuse(ReservedCommand(c))` (R78, R203). Raised by the acceptance of a presented word that R77 selects no
  command for. Safe: "The direction is toward unprovable" (R203). -/
  | reservedCommand (c : Byte)
  deriving DecidableEq, Repr

/-- `x` after reset: `FIELD_INIT[0..8]` (R27, R36). -/
def DecodedState.initial : DecodedState where
  yaw := Config.fieldInit 0
  pitch := Config.fieldInit 1
  roll := Config.fieldInit 2
  rateX := Config.fieldInit 3
  rateY := Config.fieldInit 4
  rateZ := Config.fieldInit 5
  accX := Config.fieldInit 6
  accY := Config.fieldInit 7
  accZ := Config.fieldInit 8

/-- The machine right after its first reset (R36): `IDLE`, `sync` false, no buffer cell written, `x` the open
parameter, `rsp` unspecified. Nothing has arrived, no command is presented and no turn is scheduled (Assumption 9). -/
def State.reset : State where
  phase := .idle
  sync := false
  buf := []
  x := DecodedState.initial
  rsp := Config.unspecifiedResponse 0
  src := []
  cmds := []
  agenda := []
  outcome := none
  responses := []
  resets := 0

end Sys2Proof.Machine
end

