-- ==== Sys2Proof/Machine/Ops.lean ====
section
/-! DEFINITION. The operations every meaning and transition is built from: byte order (`spec/00_scope.md` R8), the
scratch buffer (`MemRead`, `MemWrite`, R9, R56), the Byte Source (`SrcAvail`, `SrcRead`, R53, R54), the response
(R76), the acceptance of a command (R75) and the reset event (R230).

TAKING AN EXCEPTION AND RETURNING FROM ONE: the core has neither. "The core raises no exception and has no cause
codes, fault addresses, syndrome or error registers" (R201); "Trap entry: none. No state is saved, no vector is taken
and no mode changes" (R206); "Trap return and nesting: none" (R207). The one event from outside that redirects the
core is reset, `State.resetCore`. -/

namespace Sys2Proof.Machine

/-! ## Byte order -/

/-- Four bytes, the first at the lowest address, as a little-endian `u32` (R8, R57). -/
def le32 (b0 b1 b2 b3 : Byte) : Word32 :=
  b0.zeroExtend 32 ||| b1.zeroExtend 32 <<< 8 ||| b2.zeroExtend 32 <<< 16 ||| b3.zeroExtend 32 <<< 24

/-- Two bytes, the first the high-order byte, as a big-endian `u16` (R8, R58). -/
def be16 (h l : Byte) : Word16 :=
  h.zeroExtend 16 <<< 8 ||| l.zeroExtend 16

/-! ## The scratch buffer -/

/-- The byte listed at an address, if the cell has been written. -/
def Memory.lookup : Memory → Nat → Option Byte
  | [], _ => none
  | (a, b) :: rest, k => if a = k then some b else Memory.lookup rest k

/-- Write one byte, keeping the addresses strictly rising. -/
def Memory.write : Memory → Nat → Byte → Memory
  | [], k, v => [(k, v)]
  | (a, b) :: rest, k, v =>
    if k < a then (k, v) :: (a, b) :: rest
    else if k = a then (k, v) :: rest
    else (a, b) :: Memory.write rest k v

/-- The addresses rise strictly, the first being at least `low`, and lie below 41. -/
def Memory.wfFrom : Nat → Memory → Bool
  | _, [] => true
  | low, (a, _) :: rest => decide (low ≤ a) && decide (a < Config.recordLen) && Memory.wfFrom (a + 1) rest

/-- The canonical form: addresses strictly rising, all in the buffer's address space 0..40 (R28, R50). An unlisted
cell holds no written byte, so no entry can equal what an unlisted address reads as. -/
def Memory.wf (m : Memory) : Bool := Memory.wfFrom 0 m

/-- `MemRead(addr, 1) = buf[addr]` (R9): the byte written, or the open value of a cell never written in this life of
the decoder (R28, R36). -/
def State.bufByte (s : State) (a : Nat) : Byte :=
  (s.buf.lookup a).getD (Config.unspecifiedByte s.resets a)

/-- `MemRead(addr, 4) = le32(buf[addr..addr+3])` (R9); bytewise, so alignment has no effect (R60). -/
def State.bufWord (s : State) (a : Nat) : Word32 :=
  le32 (s.bufByte a) (s.bufByte (a + 1)) (s.bufByte (a + 2)) (s.bufByte (a + 3))

/-- `buf[0..n-1]` as a byte sequence (R8). -/
def State.bufBytes (s : State) (n : Nat) : List Byte :=
  (List.range n).map s.bufByte

/-- `MemWrite(j, 1, b)`: `buf[j] <- b` (R9, R56). -/
def State.writeBuf (s : State) (j : Fin 41) (b : Byte) : State :=
  { s with buf := s.buf.write j.val b }

/-! ## The Byte Source -/

/-- `SrcAvail()`: the count of unread bytes, a `Nat` (R53). It changes no state. -/
def State.srcAvail (s : State) : Nat := s.src.length

/-- `SrcRead()`: take the oldest unread byte; `none` when there is none, and then the decoder waits (R54). -/
def State.srcRead (s : State) : Option (Byte × State) :=
  match s.src with
  | [] => none
  | b :: rest => some (b, { s with src := rest })

/-- An arrival: the Byte Source appends bytes to the end of its backlog (R52). -/
def State.arrive (s : State) (bytes : List Byte) : State :=
  { s with src := s.src ++ bytes }

/-! ## Commands and responses -/

/-- The caller takes its step: one more command word, after those it already has (R64, R75). -/
def State.present (s : State) (c : Byte) : State :=
  { s with cmds := s.cmds ++ [c] }

/-- `phase <- target`: "the sequencing state takes its next value" (R9). -/
def State.goto (s : State) (target : Phase) : State :=
  { s with phase := target }

/-- `busy` is `phase != IDLE` (R22). -/
def State.busy (s : State) : Bool := decide (s.phase ≠ .idle)

/-- The presented command, if the caller has one (R75). -/
def State.presented (s : State) : Option Byte := s.cmds.head?

/-- The handshake of R75: the core accepts a command only when it is `IDLE`, and then the presented word is taken and
the command starts; "While `phase != IDLE`, a presented command is held: it is neither accepted nor lost", so nothing
changes. -/
def State.accept (s : State) (command : State → State) : Host.Outcome State Fault Refusal :=
  if s.phase = .idle then .next (command { s with cmds := s.cmds.tail }) else .next s

/-- `respond(v)`: `rsp <- v`, the caller receives `v`, `phase <- IDLE` (R76). -/
def State.respond (s : State) (v : Word32) : State :=
  { s with rsp := v, responses := s.responses ++ [v], phase := .idle }

/-- An UPDATE ends: its outcome is recorded and it responds (R31, R76, R109). DESIGN CHOICE (Assumption 21): the buffer
keeps its bytes past the end of the command, where "the buffer's contents between commands and after reset are
unspecified and cannot be observed" (R28, D7). -/
def State.finishUpdate (s : State) (o : UpdateOutcome) (v : Word32) : State :=
  { s with outcome := some o }.respond v

/-! ## Reset -/

/-- The reset event (R230): `phase <- IDLE`, `sync <- false`, `x <- FIELD_INIT`, `buf` and `rsp` unspecified. "A
command in progress at reset is abandoned. It gets no response, makes no partial commit and gives no outcome." The
Byte Source is not touched (R231), nor is what the caller presents or has received. -/
def State.resetCore (s : State) : State :=
  { s with
    phase := .idle
    sync := false
    buf := []
    x := DecodedState.initial
    rsp := Config.unspecifiedResponse (s.resets + 1)
    outcome := none
    resets := s.resets + 1 }

end Sys2Proof.Machine
end

