-- ==== Sys2Proof/Machine/Crc.lean ====
section
/-! DEFINITION. The 16-bit checksum (`spec/41_checksum.md` R140 to R144), step by step on a `u16` register, every
intermediate truncated to 16 bits. -/

namespace Sys2Proof.Machine

/-- Step (1) of R140: swap the register's two bytes. -/
def crcSwap (crc : Word16) : Word16 := (crc >>> 8) ||| (crc <<< 8)

/-- Step (2) of R140: xor the data byte into the low byte. -/
def crcXorByte (crc : Word16) (d : Byte) : Word16 := crc ^^^ d.zeroExtend 16

/-- Step (3) of R140: xor the low byte's high nibble into bits 3..0. -/
def crcNibble (crc : Word16) : Word16 := crc ^^^ ((crc &&& 0x00FF#16) >>> 4)

/-- Step (4) of R140: xor bits 3..0 into bits 15..12. -/
def crcShift12 (crc : Word16) : Word16 := crc ^^^ (crc <<< 12)

/-- Step (5) of R140: xor the low byte, shifted left by 5, into bits 12..5. -/
def crcShift5 (crc : Word16) : Word16 := crc ^^^ ((crc &&& 0x00FF#16) <<< 5)

/-- One byte of the checksum: the five steps of R140 in order. -/
def crcByte (crc : Word16) (d : Byte) : Word16 :=
  crcShift5 (crcShift12 (crcNibble (crcXorByte (crcSwap crc) d)))

/-- `CRC16(s)` (R140): the register starts at 0 and takes each byte in order. -/
def crc16 (s : List Byte) : Word16 := s.foldl crcByte Config.crcInit

/-- The computed checksum `CRC16(buf[0..38])` (R105, R144). -/
def State.computedChecksum (s : State) : Word16 := crc16 (s.bufBytes Config.crcLen)

/-- The stored checksum `be16(buf[39], buf[40])` (R58, R105; conflict C2 resolved to big-endian). -/
def State.storedChecksum (s : State) : Word16 := be16 (s.bufByte Config.ckHiOff) (s.bufByte Config.ckLoOff)

/-- `valid <- (computed == stored)` (R105). -/
def State.bufValid (s : State) : Bool := s.computedChecksum == s.storedChecksum

end Sys2Proof.Machine
end

