-- ==== Sys2Proof/Machine/Flags.lean ====
section
/-! DEFINITION. The core's only flag, `sync` (`spec/10_state.md` R24: "It is the core's only flag: the core has no
condition codes, carry or overflow flags"), and the comparison that sets it (`spec/40_update.md` R103). -/

namespace Sys2Proof.Machine

/-- `sync <- false`, at the acceptance of an UPDATE (R24 (a), R101). -/
def State.clearSync (s : State) : State := { s with sync := false }

/-- `sync <- true`, when a search reads the marker (R24 (b), R103). -/
def State.setSync (s : State) : State := { s with sync := true }

/-- "The comparison is 8-bit equality with 0xFA" (R103). -/
def isMarker (b : Byte) : Bool := b == Config.syncMarker

end Sys2Proof.Machine
end

