-- ==== Sys2Proof/Machine/Operands.lean ====
section
/-! DEFINITION. The one operand form of the command set, a field index (`spec/30_encoding.md` R77), and what it
selects: a cell of the Decoded State (`spec/10_state.md` R25) and four bytes of the record (`spec/20_memory.md` R57). -/

namespace Sys2Proof.Machine

/-- The index of a field (R25). -/
def fieldIndex : Field → Nat
  | .yaw => 0
  | .pitch => 1
  | .roll => 2
  | .rateX => 3
  | .rateY => 4
  | .rateZ => 5
  | .accX => 6
  | .accY => 7
  | .accZ => 8

/-- The record offset of a field's first byte: `3 + 4k` (R25, R57). -/
def fieldOffset (f : Field) : Nat := Config.fieldBase + Config.fieldStride * fieldIndex f

/-- `x[k]` (R9, R25). -/
def readField (d : DecodedState) : Field → Word32
  | .yaw => d.yaw
  | .pitch => d.pitch
  | .roll => d.roll
  | .rateX => d.rateX
  | .rateY => d.rateY
  | .rateZ => d.rateZ
  | .accX => d.accX
  | .accY => d.accY
  | .accZ => d.accZ

/-- Nine words as a Decoded State (R25), one per field. -/
def gatherFields (value : Field → Word32) : DecodedState where
  yaw := value .yaw
  pitch := value .pitch
  roll := value .roll
  rateX := value .rateX
  rateY := value .rateY
  rateZ := value .rateZ
  accX := value .accX
  accY := value .accY
  accZ := value .accZ

/-- `field(k) = le32(buf[3+4k], buf[4+4k], buf[5+4k], buf[6+4k]) = MemRead(3+4k, 4)` (R106). -/
def State.bufField (s : State) (f : Field) : Word32 := s.bufWord (fieldOffset f)

/-- All nine fields of the record in the buffer (R106, R107). -/
def State.bufFields (s : State) : DecodedState := gatherFields s.bufField

end Sys2Proof.Machine
end

