-- ==== Sys2Proof/Machine/Decoder.lean ====
section
/-! DEFINITION. The transitions of the decoder agent after acceptance (`spec/40_update.md` R102 to R108), one per
phase. A transition that needs a byte while `src` is empty is a wait: "the decoder has no step" (R54, R204 (a)), and
the state stays as it is. Assumption 10. -/

namespace Sys2Proof.Machine

/-- The response of an UPDATE that validated a frame (R76). -/
abbrev updateTrue : Word32 := 0x00000001#32

/-- The response of every other UPDATE (R76). -/
abbrev updateFalse : Word32 := 0x00000000#32

/-- Threshold, in `AVAIL` (R102): search when more than 4 bytes are available, else end NO_DATA. It never waits. -/
def State.thresholdStep (s : State) : State :=
  if s.srcAvail > Config.availThreshold then s.goto (.sync 0)
  else s.finishUpdate .noData updateFalse

/-- What the search does with the byte it has read, in `SYNC(i)` (R103): the marker sets `sync` and starts the frame
read; another byte goes on to `SYNC(i + 1)`, or ends NO_SYNC when it was the sixth. The byte is not stored. -/
def State.searchByte (s : State) (i : Fin 6) (b : Byte) : State :=
  if isMarker b then s.setSync.goto (.read 0)
  else if h : i.val + 1 < Config.syncScanMax then s.goto (.sync ⟨i.val + 1, h⟩)
  else s.finishUpdate .noSync updateFalse

/-- Search step, in `SYNC(i)` (R103). -/
def State.searchStep (s : State) (i : Fin 6) : State :=
  match s.srcRead with
  | none => s
  | some (b, s') => s'.searchByte i b

/-- What the frame read does with the byte it has read, in `READ(j)` (R104): `buf[j] <- b`, then the next cell, or
`CHECK` after the last. -/
def State.recordByte (s : State) (j : Fin 41) (b : Byte) : State :=
  if h : j.val + 1 < Config.recordLen then (s.writeBuf j b).goto (.read ⟨j.val + 1, h⟩)
  else (s.writeBuf j b).goto .check

/-- Frame read step, in `READ(j)` (R104). -/
def State.recordStep (s : State) (j : Fin 41) : State :=
  match s.srcRead with
  | none => s
  | some (b, s') => s'.recordByte j b

/-- The single `CHECK` transition: checksum comparison, commit of all nine fields and response (R105 to R108). -/
def State.checkStep (s : State) : State :=
  if s.bufValid then { s with x := s.bufFields }.finishUpdate .decoded updateTrue
  else s.finishUpdate .badChecksum updateFalse

/-- One transition of the decoder on the command in progress (R21, R102 to R108); none in `IDLE`. -/
def State.transition (s : State) : State :=
  match s.phase with
  | .idle => s
  | .avail => s.thresholdStep
  | .sync i => s.searchStep i
  | .read j => s.recordStep j
  | .check => s.checkStep

end Sys2Proof.Machine
end

