-- ==== Sys2Proof/Machine/Get.lean ====
section
/-! DEFINITION. The nine GET commands, words 0x10..0x18 (`spec/42_field_access.md` R160 to R169). -/

namespace Sys2Proof.Machine

/-- GET k (R160): `respond(x[k])`. "No other state changes: `sync`, `buf`, `x` and `src` are untouched and no byte is
read." The pattern is moved bit for bit (R170). While the core is busy the command is held (R75). -/
def execGet (f : Field) (s : State) : Host.Outcome State Fault Refusal :=
  s.accept fun t => t.respond (readField t.x f)

/-- GET YAW, word 0x10: `respond(x[0])` (R161). -/
def execGetYaw (s : State) : Host.Outcome State Fault Refusal := execGet .yaw s

/-- GET PITCH, word 0x11: `respond(x[1])` (R162). -/
def execGetPitch (s : State) : Host.Outcome State Fault Refusal := execGet .pitch s

/-- GET ROLL, word 0x12: `respond(x[2])` (R163). -/
def execGetRoll (s : State) : Host.Outcome State Fault Refusal := execGet .roll s

/-- GET RATEX, word 0x13: `respond(x[3])` (R164). -/
def execGetRatex (s : State) : Host.Outcome State Fault Refusal := execGet .rateX s

/-- GET RATEY, word 0x14: `respond(x[4])` (R165). -/
def execGetRatey (s : State) : Host.Outcome State Fault Refusal := execGet .rateY s

/-- GET RATEZ, word 0x15: `respond(x[5])` (R166). -/
def execGetRatez (s : State) : Host.Outcome State Fault Refusal := execGet .rateZ s

/-- GET ACCX, word 0x16: `respond(x[6])` (R167). -/
def execGetAccx (s : State) : Host.Outcome State Fault Refusal := execGet .accX s

/-- GET ACCY, word 0x17: `respond(x[7])` (R168). -/
def execGetAccy (s : State) : Host.Outcome State Fault Refusal := execGet .accY s

/-- GET ACCZ, word 0x18: `respond(x[8])` (R169). -/
def execGetAccz (s : State) : Host.Outcome State Fault Refusal := execGet .accZ s

end Sys2Proof.Machine
end

