-- ==== Sys2Proof/Machine/Update.lean ====
section
/-! DEFINITION. UPDATE, word 0x00 (`spec/40_update.md` R100, R101). -/

namespace Sys2Proof.Machine

/-- UPDATE. Its execution is the acceptance of R101: `sync <- false; phase <- AVAIL`. "Nothing else changes, and no
byte is read." From there the decoder's own transitions carry the command out (`State.transition`, R102 to R108, which
"are normative"; R100 "is their composition"). While the core is busy the command is held (R75). Assumption 11. -/
def execUpdate (s : State) : Host.Outcome State Fault Refusal :=
  s.accept fun t => t.clearSync.goto .avail

end Sys2Proof.Machine
end

