-- ==== Sys2Proof/Machine/Dispatch.lean ====
section
/-! DEFINITION. The meaning of each command, one arm per constructor of `Instr`. -/

namespace Sys2Proof.Machine

def exec (i : Instr) (s : State) : Host.Outcome State Fault Refusal :=
  match i with
  | .update => Sys2Proof.Machine.execUpdate s
  | .getYaw => Sys2Proof.Machine.execGetYaw s
  | .getPitch => Sys2Proof.Machine.execGetPitch s
  | .getRoll => Sys2Proof.Machine.execGetRoll s
  | .getRatex => Sys2Proof.Machine.execGetRatex s
  | .getRatey => Sys2Proof.Machine.execGetRatey s
  | .getRatez => Sys2Proof.Machine.execGetRatez s
  | .getAccx => Sys2Proof.Machine.execGetAccx s
  | .getAccy => Sys2Proof.Machine.execGetAccy s
  | .getAccz => Sys2Proof.Machine.execGetAccz s

end Sys2Proof.Machine
end

