-- ==== Sys2Proof/Machine/Turns.lean ====
section
/-! DEFINITION. What each agent does with its turn (`spec/00_scope.md` R3): the decoder accepts a presented command
when it is `IDLE` (`spec/30_encoding.md` R75) and otherwise takes its next transition; the Byte Source appends (R52);
the caller issues a command (R75); reset happens (R230). -/

namespace Sys2Proof.Machine

/-- `IDLE`: the presented word is decoded (R75, R77) and its command executed, a reserved word is refused (R78, R203),
and with no word presented the core stays `IDLE` (R214; Assumption 12). -/
def State.acceptPresented (s : State) : Host.Outcome State Fault Refusal :=
  match s.presented with
  | none => .next s
  | some c =>
    match decodeWord c with
    | .ok i => exec i s
    | .error _ => .refused (.reservedCommand c)

/-- The decoder's turn: "The decoder moves only when a command is in progress" (R3), or to accept one (R75). -/
def State.decoderTurn (s : State) : Host.Outcome State Fault Refusal :=
  if s.busy then .next s.transition else s.acceptPresented

/-- One turn of the agent it names. -/
def State.takeTurn (s : State) : Turn → Host.Outcome State Fault Refusal
  | .decoder => s.decoderTurn
  | .arrive bytes => .next (s.arrive bytes)
  | .present c => .next (s.present c)
  | .reset => .next s.resetCore

/-- The agent that moves next: the first of the agenda, and the decoder once the agenda is empty (Assumption 4). -/
def State.nextTurn (s : State) : Turn := s.agenda.head?.getD .decoder

/-- The state with the turn that is about to be taken struck off the agenda. -/
def State.popTurn (s : State) : State := { s with agenda := s.agenda.tail }

/-- The command word of an opcode-table word: its low `nbits` bits, at most eight (R80). -/
def fetchByte (nbits w : Nat) : Byte := BitVec.ofNat 8 (w % 2 ^ nbits)

/-- A state in which the decoder is `IDLE`, has the next turn and finds this word presented. -/
def State.presentNext (s : State) (c : Byte) : State :=
  { s with phase := .idle, cmds := c :: s.cmds, agenda := .decoder :: s.agenda }

end Sys2Proof.Machine
end

