-- ==== Sys2Proof/Machine/Step.lean ====
section
/-! DEFINITION. One step of the machine: the agent whose turn it is moves. -/

namespace Sys2Proof.Machine

/-- One step: the next turn of the agenda is taken (R3, R52), the decoder's once the agenda is empty. -/
def step (s : State) : Host.Outcome State Fault Refusal :=
  s.popTurn.takeTurn s.nextTurn

/-- `s` with an opcode-table word presented, so that the next step accepts and executes it. The core fetches nothing
(R67): a command reaches it by being presented while it is `IDLE` (R75). Assumption 9. -/
def State.withFetchWord (s : State) (nbits w : Nat) : State :=
  s.presentNext (fetchByte nbits w)

end Sys2Proof.Machine
end

