-- ==== Sys2Proof/Safety.lean ====
section
/-! DEFINITION. What counts as a good run and as a sound state, in the terms the claims use: the record a frame
carries (`spec/30_encoding.md` R70, R74), the machine's invariant, waiting (`spec/60_exceptions.md` R204), refusal
(R203) and the end of a run (`spec/92_eei_decisions.md` D30). -/

namespace Sys2Proof.Machine

/-! ## A record as a byte sequence -/

/-- Byte `j` of a record (R70); 0 past its end, which no claim looks at. -/
def recordByteAt (r : List Byte) (j : Nat) : Byte := r.getD j 0#8

/-- A record is valid when "`be16(record[39], record[40]) == CRC16(record[0..38])`" (R74). -/
def recordValid (r : List Byte) : Bool :=
  crc16 (r.take Config.crcLen) == be16 (recordByteAt r Config.ckHiOff) (recordByteAt r Config.ckLoOff)

/-- The nine fields of a record: field `k` is little-endian at offset `3 + 4k` (R57, R70). -/
def recordFields (r : List Byte) : DecodedState :=
  gatherFields fun f =>
    le32 (recordByteAt r (fieldOffset f)) (recordByteAt r (fieldOffset f + 1))
      (recordByteAt r (fieldOffset f + 2)) (recordByteAt r (fieldOffset f + 3))

/-- `LE(w)`: the four bytes of a word, least significant first (R172). -/
def wordBytes (w : Word32) : List Byte :=
  [w.extractLsb' 0 8, w.extractLsb' 8 8, w.extractLsb' 16 8, w.extractLsb' 24 8]

/-- The checksummed part of a record: three header bytes and nine fields (R144, R172). -/
def recordBody (h0 h1 h2 : Byte) (d : DecodedState) : List Byte :=
  [h0, h1, h2] ++ wordBytes d.yaw ++ wordBytes d.pitch ++ wordBytes d.roll
    ++ wordBytes d.rateX ++ wordBytes d.rateY ++ wordBytes d.rateZ
    ++ wordBytes d.accX ++ wordBytes d.accY ++ wordBytes d.accZ

/-- The record of R172: the body followed by its checksum, high byte first. -/
def encodeRecord (h0 h1 h2 : Byte) (d : DecodedState) : List Byte :=
  recordBody h0 h1 h2 d ++
    [(crc16 (recordBody h0 h1 h2 d)).extractLsb' 8 8, (crc16 (recordBody h0 h1 h2 d)).extractLsb' 0 8]

/-! ## Waiting, refusal and the end of a run -/

/-- The decoder has the next turn (R3). -/
abbrev State.decoderMoves (s : State) : Prop := s.nextTurn = .decoder

/-- "Decoder waiting for a byte: in `SYNC(i)` or `READ(j)` with `src` empty" (R204 (a)). -/
def State.waiting (s : State) : Bool :=
  match s.phase, s.src with
  | .sync _, [] => true
  | .read _, [] => true
  | _, _ => false

/-- `n` steps of the machine behind the host's interface, stopping at the first refusal. -/
def run (n : Nat) (s : State) : Host.Outcome State Fault Refusal := Host.Core.run Sys2Proof.core n s

/-- A run of `n` steps is good when no step is refused: "no run with the mark set counts as a good run" (R203). -/
def goodRun (n : Nat) (s : State) : Prop :=
  ∃ t, run n s = .next t

/-- A turn that still issues a command. -/
def Turn.issuesCommand : Turn → Bool
  | .present _ => true
  | .decoder => false
  | .arrive _ => false
  | .reset => false

/-- A program has ended "when every command it issued has its response and the core is `IDLE`" (D30): no word is left
to present and none is scheduled. DESIGN CHOICE (Assumption 20): a command abandoned by reset, which "gets no response"
(R230), keeps no program from having ended; D30 speaks of programs without a reset. -/
def State.ended (s : State) : Bool :=
  decide (s.phase = .idle) && s.cmds.isEmpty && !s.agenda.any Turn.issuesCommand

/-- The end state of D30: `(x, src, rsp)`. -/
def State.endState (s : State) : DecodedState × List Byte × Word32 := (s.x, s.src, s.rsp)

/-! ## The invariant -/

/-- The buffer cells `0..n-1` have been written in this life of the decoder. -/
def State.filledTo (s : State) (n : Nat) : Prop := ∀ a, a < n → (s.buf.lookup a).isSome

/-- An outcome that needs a marker to have been found (R24, R200). -/
def foundMarker : Option UpdateOutcome → Bool
  | some .badChecksum => true
  | some .decoded => true
  | some .noData => false
  | some .noSync => false
  | none => false

/-- What `sync` and `buf` hold in each phase (R21, R24): `sync` is false until the marker is read and true from then
on, "after any UPDATE ends, `sync` is true exactly when that UPDATE found a marker", and "`j` record bytes are in
`buf[0..j-1]`". -/
def State.phaseSound (s : State) : Prop :=
  match s.phase with
  | .idle => s.sync = foundMarker s.outcome
  | .avail => s.sync = false
  | .sync _ => s.sync = false
  | .read j => s.sync = true ∧ s.filledTo j.val
  | .check => s.sync = true ∧ s.filledTo Config.recordLen

/-- The machine's invariant: the buffer keeps its canonical form and its address space, and the phase says the truth
about `sync` and about what the buffer holds. -/
def State.Inv (s : State) : Prop := s.buf.wf = true ∧ s.phaseSound

end Sys2Proof.Machine
end

