-- ==== Sys2Proof/Certificates/Slice0/Obligations.lean ====
section
/-! DEFINITION. The statements for the provers, each from the rules of `spec/`. The vocabulary they need beyond the
model's own stands first, in the namespace `Claims`. Everywhere, `s.decoderMoves` says that the next turn is the
decoder's, and `s.popTurn` is `s` with that turn struck off the agenda (Assumption 4). Where a statement gives the
whole state in which an UPDATE has ended, that the buffer then holds the bytes it held is the model's choice
(Assumption 21): the spec leaves the buffer's contents between commands unspecified (R28). -/

open Sys2Proof Sys2Proof.Machine

namespace Sys2Proof.Claims

/-- The reserved command words, as R78 lists them. -/
def reservedWord (c : Byte) : Bool :=
  decide (0x01 ≤ c.toNat ∧ c.toNat ≤ 0x0F) || decide (0x19 ≤ c.toNat ∧ c.toNat ≤ 0x1F) || decide (0x20 ≤ c.toNat)

/-- One iteration of the source's checksum loop on a number, without its last line (R140). -/
def crcIteration (crc : Nat) (d : Byte) : Nat :=
  let swapped := (crc >>> 8) ||| (crc <<< 8)
  let mixed := swapped ^^^ d.toNat
  let nibble := mixed ^^^ ((mixed &&& 0xFF) >>> 4)
  let shifted := nibble ^^^ (nibble <<< 12)
  shifted ^^^ ((shifted &&& 0x00FF) <<< 5)

/-- The source's checksum: "`crc = crc and 0xFFFF`" once, at the end of each iteration (R140, R141). -/
def crcMaskedOnce (s : List Byte) : Nat := s.foldl (fun crc d => crcIteration crc d &&& 0xFFFF) 0

/-- The variant that R141 forbids: no truncation at all. -/
def crcUnmasked (s : List Byte) : Nat := s.foldl crcIteration 0

/-- Bytewise xor of two sequences (R146). -/
def xorBytes (a b : List Byte) : List Byte := List.zipWith (· ^^^ ·) a b

/-- Flip bit `n` of a byte sequence: bit `n % 8` of byte `n / 8` (R147). -/
def flipBit (n : Nat) (r : List Byte) : List Byte :=
  r.modify (n / 8) fun b => b ^^^ (1#8 <<< (n % 8))

/-- The bytes that the turns of an agenda still bring, in order (R52). -/
def arrivalsOf : List Turn → List Byte
  | [] => []
  | .arrive bytes :: rest => bytes ++ arrivalsOf rest
  | .decoder :: rest => arrivalsOf rest
  | .present _ :: rest => arrivalsOf rest
  | .reset :: rest => arrivalsOf rest

/-- Only the decoder and the Byte Source move. -/
def decoderOrArrival : Turn → Bool
  | .decoder => true
  | .arrive _ => true
  | .present _ => false
  | .reset => false

/-- A turn on which the caller adds a command. -/
def presents : Turn → Nat
  | .present _ => 1
  | .decoder => 0
  | .arrive _ => 0
  | .reset => 0

/-- The command in progress, as a count. -/
def inProgress (s : State) : Nat := if s.phase = .idle then 0 else 1

/-- The GET word of a field: `0x10 | k` (R81, R160). -/
def getWord (f : Field) : Byte := BitVec.ofNat 8 (0x10 + fieldIndex f)

/-- How many buffer cells the command in progress has filled and will still read (R21, R28). -/
def cellsInUse : Phase → Nat
  | .idle => 0
  | .avail => 0
  | .sync _ => 0
  | .read j => j.val
  | .check => Config.recordLen

/-- Two machines that differ in hidden state only (R34): they agree on the phase, `x`, the Byte Source, the caller's
words, the schedule, and the buffer cells that the command in progress has filled. -/
def looksAlike (s s' : State) : Prop :=
  s'.phase = s.phase ∧ s'.x = s.x ∧ s'.src = s.src ∧ s'.cmds = s.cmds ∧ s'.agenda = s.agenda ∧
    ∀ a, a < cellsInUse s.phase → s'.bufByte a = s.bufByte a

end Sys2Proof.Claims

open Sys2Proof.Claims

/-! ## Commands: encoding, acceptance, refusal -/

/-- R79, the opcode map: each of the ten words decodes to its command, and no other word decodes. -/
def Obligations.CommandWordsDecode : Prop :=
  decodeWord 0x00#8 = .ok .update ∧ decodeWord 0x10#8 = .ok .getYaw ∧ decodeWord 0x11#8 = .ok .getPitch ∧
  decodeWord 0x12#8 = .ok .getRoll ∧ decodeWord 0x13#8 = .ok .getRatex ∧ decodeWord 0x14#8 = .ok .getRatey ∧
  decodeWord 0x15#8 = .ok .getRatez ∧ decodeWord 0x16#8 = .ok .getAccx ∧ decodeWord 0x17#8 = .ok .getAccy ∧
  decodeWord 0x18#8 = .ok .getAccz ∧
  ∀ c i, decodeWord c = .ok i →
    c ∈ [0x00#8, 0x10#8, 0x11#8, 0x12#8, 0x13#8, 0x14#8, 0x15#8, 0x16#8, 0x17#8, 0x18#8]

/-- Decoding and encoding agree in both directions, and a command is one byte (R77, R79, R80). -/
def Obligations.DecodeEncodeAgree : Prop :=
  (∀ i rest, i.wellFormed = true → decode (encode i :: rest) = .ok (i, rest)) ∧
  (∀ bytes i rest, decode bytes = .ok (i, rest) → i.wellFormed = true ∧ bytes = encode i :: rest)

/-- R81: `UPDATE` assembles to 0x00, `GET <f>` to `0x10 | k` for a field's name as for its index k = 0..8, and an
index above 8 to nothing. -/
def Obligations.AssemblerWords : Prop :=
  (assemble .update).map encode = some 0x00#8 ∧
  (∀ f, (assemble (.get f)).map encode = some (getWord f)) ∧
  (∀ k, (AsmCommand.getIndex k).wellFormed = true →
    (assemble (.getIndex k)).map encode = some (BitVec.ofNat 8 (0x10 ||| k))) ∧
  (∀ k, (AsmCommand.getIndex k).wellFormed = false → assemble (.getIndex k) = none)

/-- R78, R203: a reserved word presented to an `IDLE` core is refused, and stays refused for the rest of the run, so
that no run through it is good; there are 246 reserved words. -/
def Obligations.ReservedWordRefused : Prop :=
  (∀ s : State, ∀ c rest, s.phase = .idle → s.decoderMoves → s.cmds = c :: rest → reservedWord c = true →
    step s = .refused (.reservedCommand c) ∧
    ∀ n, run (n + 1) s = .refused (.reservedCommand c) ∧ ¬ goodRun (n + 1) s) ∧
  ((List.range 256).filter fun w => reservedWord (BitVec.ofNat 8 w)).length = 246

/-- R201, R203: a step never faults, and it is refused only for a reserved word presented to an `IDLE` core. -/
def Obligations.StepStopsOnlyOnReservedWords : Prop :=
  ∀ s : State, (∀ f, step s ≠ .fault f) ∧
    ∀ r, step s = .refused r →
      s.phase = .idle ∧ s.decoderMoves ∧
        ∃ c rest, s.cmds = c :: rest ∧ reservedWord c = true ∧ r = .reservedCommand c

/-- R75, R77: on the decoder's turn an `IDLE` core runs the command that the presented word decodes to. -/
def Obligations.StepRunsPresentedCommand : Prop :=
  ∀ (s : State) (c : Byte) (rest : List Byte) (i : Instr), s.phase = .idle → s.decoderMoves → s.cmds = c :: rest →
    decodeWord c = .ok i → i.wellFormed = true → step s = exec i s.popTurn

/-- R22, R75: while the core is busy a presented command is held: no word that is waiting is accepted or lost, whatever
turn is taken. Four points of it are the model's choice and not the rules': a command executed on a busy core leaves
the state as it is (Assumption 11), a waiting decoder still answers a next state (Assumption 10), a new word goes behind
the others, and reset leaves the words as they are (both Assumption 5). -/
def Obligations.BusyCoreHoldsCommands : Prop :=
  ∀ s : State, s.phase ≠ .idle →
    (∀ i, exec i s = .next s) ∧
    ∃ t, step s = .next t ∧
      (t.cmds = s.cmds ∨ ∃ c, s.nextTurn = .present c ∧ t.cmds = s.cmds ++ [c])

/-- D30: a program that has ended keeps its end state `(x, src, rsp)` and gives no further response, as long as
nothing is scheduled. That an `IDLE` core with no word presented stays as it is is the model's rendering
(Assumption 12), and so is that a program whose UPDATE was abandoned by a reset counts as ended (Assumption 20). -/
def Obligations.EndedProgramKeepsEndState : Prop :=
  ∀ (s : State) (n : Nat), s.ended = true → s.agenda = [] →
    ∃ t, run n s = .next t ∧ t.ended = true ∧ t.endState = s.endState ∧
      t.responses = s.responses

/-! ## The decoder's transitions -/

/-- R101: an accepted UPDATE clears `sync` and goes to `AVAIL`; nothing else of the core changes, no byte is read. -/
def Obligations.UpdateAccepted : Prop :=
  ∀ s : State, s.phase = .idle →
    exec .update s = .next { s with sync := false, phase := .avail, cmds := s.cmds.tail }

/-- R102: the threshold transition, at every count of available bytes. That the buffer keeps its bytes when the UPDATE
has ended NO_DATA is the model's choice (Assumption 21). -/
def Obligations.ThresholdTransition : Prop :=
  ∀ s : State, s.decoderMoves → s.phase = .avail →
    (4 < s.src.length → step s = .next { s with agenda := s.agenda.tail, phase := .sync 0 }) ∧
    (s.src.length ≤ 4 → step s = .next
      { s with
        agenda := s.agenda.tail, outcome := some .noData, rsp := 0#32, responses := s.responses ++ [0#32],
        phase := .idle })

/-- R103: the search step, for the marker, for another byte before the sixth, and for the sixth. With no byte the
decoder waits (R54, R204), which the model renders as a step that only uses up the turn: that clause is the model's
choice (Assumption 10), and so is that the buffer keeps its bytes when the UPDATE has ended NO_SYNC (Assumption 21). -/
def Obligations.SearchTransition : Prop :=
  ∀ (s : State) (i : Fin 6), s.decoderMoves → s.phase = .sync i →
    (s.src = [] → step s = .next s.popTurn) ∧
    (∀ rest, s.src = 0xFA#8 :: rest →
      step s = .next { s with agenda := s.agenda.tail, src := rest, sync := true, phase := .read 0 }) ∧
    (∀ b rest, s.src = b :: rest → b ≠ 0xFA#8 → ∀ h : i.val + 1 < 6,
      step s = .next { s with agenda := s.agenda.tail, src := rest, phase := .sync ⟨i.val + 1, h⟩ }) ∧
    (∀ b rest, s.src = b :: rest → b ≠ 0xFA#8 → i.val = 5 →
      step s = .next { s with
        agenda := s.agenda.tail, src := rest, outcome := some .noSync, rsp := 0#32,
        responses := s.responses ++ [0#32], phase := .idle })

/-- R104: the frame read step: cell `j` takes the byte, every other cell reads as before, and only the backlog and
the phase change besides. With no byte the decoder waits (R54, R204), which the model renders as a step that only uses
up the turn: that clause is the model's choice (Assumption 10). -/
def Obligations.FrameReadTransition : Prop :=
  ∀ (s : State) (j : Fin 41), s.decoderMoves → s.phase = .read j →
    (s.src = [] → step s = .next s.popTurn) ∧
    (∀ b rest, s.src = b :: rest → ∃ t, step s = .next t ∧
      t.bufByte j.val = b ∧ (∀ a, a ≠ j.val → t.bufByte a = s.bufByte a) ∧
      (∀ h : j.val + 1 < 41,
        { t with buf := s.buf } = { s with agenda := s.agenda.tail, src := rest, phase := .read ⟨j.val + 1, h⟩ }) ∧
      (j.val = 40 → { t with buf := s.buf } = { s with agenda := s.agenda.tail, src := rest, phase := .check }))

/-- R105 to R108: the single `CHECK` transition. When `CRC16(buf[0..38])` equals `be16(buf[39], buf[40])` all nine
fields are committed, each little-endian at its offset, and the response is 1; otherwise `x` is not written and the
response is 0. Nothing else changes. That the buffer keeps the record when the UPDATE has ended is the model's choice
(Assumption 21). -/
def Obligations.CheckTransition : Prop :=
  ∀ s : State, s.decoderMoves → s.phase = .check →
    (crc16 (s.bufBytes 39) = be16 (s.bufByte 39) (s.bufByte 40) → step s = .next
      { s with
        agenda := s.agenda.tail
        x := { yaw := le32 (s.bufByte 3) (s.bufByte 4) (s.bufByte 5) (s.bufByte 6)
               pitch := le32 (s.bufByte 7) (s.bufByte 8) (s.bufByte 9) (s.bufByte 10)
               roll := le32 (s.bufByte 11) (s.bufByte 12) (s.bufByte 13) (s.bufByte 14)
               rateX := le32 (s.bufByte 15) (s.bufByte 16) (s.bufByte 17) (s.bufByte 18)
               rateY := le32 (s.bufByte 19) (s.bufByte 20) (s.bufByte 21) (s.bufByte 22)
               rateZ := le32 (s.bufByte 23) (s.bufByte 24) (s.bufByte 25) (s.bufByte 26)
               accX := le32 (s.bufByte 27) (s.bufByte 28) (s.bufByte 29) (s.bufByte 30)
               accY := le32 (s.bufByte 31) (s.bufByte 32) (s.bufByte 33) (s.bufByte 34)
               accZ := le32 (s.bufByte 35) (s.bufByte 36) (s.bufByte 37) (s.bufByte 38) }
        outcome := some .decoded, rsp := 1#32, responses := s.responses ++ [1#32], phase := .idle }) ∧
    (crc16 (s.bufBytes 39) ≠ be16 (s.bufByte 39) (s.bufByte 40) → step s = .next
      { s with
        agenda := s.agenda.tail, outcome := some .badChecksum, rsp := 0#32,
        responses := s.responses ++ [0#32], phase := .idle })

/-- R8, R57, R58: the byte order of a field and of the checksum, as numbers. -/
def Obligations.ByteOrderOfFieldsAndChecksum : Prop :=
  (∀ b0 b1 b2 b3 : Byte,
    (le32 b0 b1 b2 b3).toNat = b0.toNat + 0x100 * b1.toNat + 0x10000 * b2.toNat + 0x1000000 * b3.toNat) ∧
  (∀ h l : Byte, (be16 h l).toNat = 0x100 * h.toNat + l.toNat)

/-! ## GET -/

/-- R160 to R169: each GET, on an `IDLE` core, answers its own cell of `x`; besides `rsp` and the response given,
nothing changes but that the command has been accepted. -/
def Obligations.GetResults : Prop :=
  ∀ s : State, s.phase = .idle →
    exec .getYaw s = .next
      { s with cmds := s.cmds.tail, rsp := s.x.yaw, responses := s.responses ++ [s.x.yaw] } ∧
    exec .getPitch s = .next
      { s with cmds := s.cmds.tail, rsp := s.x.pitch, responses := s.responses ++ [s.x.pitch] } ∧
    exec .getRoll s = .next
      { s with cmds := s.cmds.tail, rsp := s.x.roll, responses := s.responses ++ [s.x.roll] } ∧
    exec .getRatex s = .next
      { s with cmds := s.cmds.tail, rsp := s.x.rateX, responses := s.responses ++ [s.x.rateX] } ∧
    exec .getRatey s = .next
      { s with cmds := s.cmds.tail, rsp := s.x.rateY, responses := s.responses ++ [s.x.rateY] } ∧
    exec .getRatez s = .next
      { s with cmds := s.cmds.tail, rsp := s.x.rateZ, responses := s.responses ++ [s.x.rateZ] } ∧
    exec .getAccx s = .next
      { s with cmds := s.cmds.tail, rsp := s.x.accX, responses := s.responses ++ [s.x.accX] } ∧
    exec .getAccy s = .next
      { s with cmds := s.cmds.tail, rsp := s.x.accY, responses := s.responses ++ [s.x.accY] } ∧
    exec .getAccz s = .next
      { s with cmds := s.cmds.tail, rsp := s.x.accZ, responses := s.responses ++ [s.x.accZ] }

/-- The frame of one `exec` of a command, in every phase: on an `IDLE` core the acceptance of UPDATE (R101) or the whole
of a GET (R160), on a busy core the command held (R75). `x`, every byte of the buffer, the Byte Source, the agenda and
the ghost outcome are unchanged; a GET leaves `sync` and `phase`, UPDATE leaves `rsp` and the responses given. That one
`exec` of UPDATE is its acceptance only, and that `exec` on a busy core leaves the state as it is, are the model's
choices (Assumption 11): the UPDATE of R100 as a whole writes `buf`, `x` and `rsp`, in the decoder's later transitions. -/
def Obligations.CommandFrame : Prop :=
  ∀ (i : Instr) (s t : State), exec i s = .next t →
    t.x = s.x ∧ (∀ a, t.bufByte a = s.bufByte a) ∧ t.src = s.src ∧ t.agenda = s.agenda ∧ t.outcome = s.outcome ∧
    t.resets = s.resets ∧
    (i ≠ .update → t.sync = s.sync ∧ t.phase = s.phase) ∧
    (i = .update → t.rsp = s.rsp ∧ t.responses = s.responses)

/-- R174, R160 (c), R62: GETs with no UPDATE between them read one consistent group: with the agenda empty, each
answers its cell of the `x` at the start, and `x`, the Byte Source and everything else but `rsp` stay. -/
def Obligations.GetsReadOneGroup : Prop :=
  ∀ (s : State) (fs : List Field) (rest : List Byte), s.phase = .idle → s.agenda = [] →
    s.cmds = fs.map getWord ++ rest →
    ∃ t, run fs.length s = .next t ∧
      { t with rsp := s.rsp } = { s with cmds := rest, responses := s.responses ++ fs.map (readField s.x) }

/-! ## The other agents, waiting and reset -/

/-- R52, R75: what the turns of the Byte Source and of the caller do. An arrival only appends to the backlog; the
caller only adds a command word (that it goes behind those already there is Assumption 5). -/
def Obligations.EnvironmentTurns : Prop :=
  (∀ (s : State) (bytes : List Byte), s.nextTurn = .arrive bytes →
    step s = .next { s with agenda := s.agenda.tail, src := s.src ++ bytes }) ∧
  (∀ (s : State) (c : Byte), s.nextTurn = .present c →
    step s = .next { s with agenda := s.agenda.tail, cmds := s.cmds ++ [c] })

/-- R230, R231: the reset event, in any phase: the core's state takes its reset values (`buf` and `rsp` are
unspecified, and nothing is said of them), the command in progress gives no response, no commit and no outcome, and
the Byte Source is not touched. That the ghost outcome is cleared is Assumption 6, and that the caller's own words stay
as they are is Assumption 5: those two clauses are the model's choice. -/
def Obligations.ResetEvent : Prop :=
  ∀ s : State, s.nextTurn = .reset → ∃ t, step s = .next t ∧
    t.phase = .idle ∧ t.sync = false ∧ (∀ f, readField t.x f = Config.fieldInit (Fin.ofNat 9 (fieldIndex f))) ∧
    t.outcome = none ∧ t.src = s.src ∧ t.cmds = s.cmds ∧ t.responses = s.responses ∧ t.agenda = s.agenda.tail

/-- R36, R232: the state after reset. `FIELD_INIT` is an open parameter, and nothing is said of `buf` and `rsp`. -/
def Obligations.ResetState : Prop :=
  State.reset.phase = .idle ∧ State.reset.sync = false ∧
  (∀ f, readField State.reset.x f = Config.fieldInit (Fin.ofNat 9 (fieldIndex f)))

/-- R54, R204, R240, R242: while the decoder waits and no byte ever arrives, the run hangs: no command that is presented
is accepted and no response is given. The rules give a waiting decoder no step. That the run then goes on in steps that
leave the state as it is is the model's choice (Assumption 10), and the empty agenda is how the model says that nothing
arrives (Assumption 4). -/
def Obligations.UnfedUpdateHangs : Prop :=
  ∀ (s : State) (n : Nat), s.waiting = true → s.agenda = [] → run n s = .next s

/-- R54, R204 (a): an arrival lifts the wait: the decoder's next turn consumes the first byte that arrived. -/
def Obligations.ArrivalLiftsWait : Prop :=
  ∀ (s : State) (b : Byte) (bytes : List Byte) (turns : List Turn), s.waiting = true →
    s.agenda = .arrive (b :: bytes) :: .decoder :: turns →
    ∃ t, run 2 s = .next t ∧ t.src = bytes ∧ t.phase ≠ s.phase

/-! ## The checksum -/

/-- R140, R142, R143: the checksum of no byte is 0, and one byte more is the five steps of R140 on a `u16`. -/
def Obligations.ChecksumByteStep : Prop :=
  crc16 [] = 0x0000#16 ∧
  ∀ (s : List Byte) (d : Byte),
    let crc1 := ((crc16 s >>> 8) ||| (crc16 s <<< 8)) &&& 0xFFFF#16
    let crc2 := crc1 ^^^ d.zeroExtend 16
    let crc3 := crc2 ^^^ ((crc2 &&& 0x00FF#16) >>> 4)
    let crc4 := (crc3 ^^^ (crc3 <<< 12)) &&& 0xFFFF#16
    let crc5 := (crc4 ^^^ ((crc4 &&& 0x00FF#16) <<< 5)) &&& 0xFFFF#16
    crc16 (s ++ [d]) = crc5

/-- R141: truncating after every step gives the source's single truncation per iteration, on every byte sequence;
without truncation the nine bytes 31..39 give a wider value, whose low 16 bits are 0xACEB and not 0x31C3. -/
def Obligations.ChecksumTruncation : Prop :=
  (∀ s : List Byte, (crc16 s).toNat = crcMaskedOnce s) ∧
  crc16 [0x31#8, 0x32#8, 0x33#8, 0x34#8, 0x35#8, 0x36#8, 0x37#8, 0x38#8, 0x39#8] = 0x31C3#16 ∧
  0x10000 ≤ crcUnmasked [0x31#8, 0x32#8, 0x33#8, 0x34#8, 0x35#8, 0x36#8, 0x37#8, 0x38#8, 0x39#8] ∧
  crcUnmasked [0x31#8, 0x32#8, 0x33#8, 0x34#8, 0x35#8, 0x36#8, 0x37#8, 0x38#8, 0x39#8] % 0x10000 = 0xACEB

/-- R145: each step takes a zero register and a zero byte to zero, so zero bytes leave the checksum zero. So an
all-zero record is valid: an UPDATE that reads the marker and then 41 zero bytes responds 1 and commits 0x00000000 to
all nine fields. -/
def Obligations.ZeroRecordDecodes : Prop :=
  (crcSwap 0 = 0 ∧ crcXorByte 0 0 = 0 ∧ crcNibble 0 = 0 ∧ crcShift12 0 = 0 ∧ crcShift5 0 = 0) ∧
  (∀ n, crc16 (List.replicate n 0x00#8) = 0x0000#16) ∧
  ∀ (s : State) (cmds rest : List Byte), s.phase = .idle → s.agenda = [] → s.cmds = 0x00#8 :: cmds →
    s.src = 0xFA#8 :: (List.replicate 41 0x00#8 ++ rest) →
    ∃ t, run 45 s = .next t ∧ t.phase = .idle ∧ t.outcome = some .decoded ∧
      t.rsp = 1#32 ∧ t.responses = s.responses ++ [1#32] ∧ t.src = rest ∧ ∀ f, readField t.x f = 0#32

/-- R146: the checksum is linear over GF(2), so an error pattern added to a valid record goes undetected exactly when
its own checksum equals the error added to the stored one. -/
def Obligations.ChecksumLinear : Prop :=
  (∀ a b : List Byte, a.length = b.length → crc16 (xorBytes a b) = crc16 a ^^^ crc16 b) ∧
  ∀ r e : List Byte, recordWellFormed r = true → recordWellFormed e = true → recordValid r = true →
    (recordValid (xorBytes r e) = true ↔
      crc16 (e.take 39) = be16 (recordByteAt e 39) (recordByteAt e 40))

/-- R147: every single-bit and every two-bit error in the 41 record bytes changes the outcome from DECODED to
BAD_CHECKSUM, whatever the record's content, and `x` stays as it was; a marker byte with a bit in error is not
matched by the search. That the buffer keeps the record when the UPDATE has ended is the model's choice
(Assumption 21). -/
def Obligations.OneAndTwoBitErrorsDetected : Prop :=
  (∀ (s s' t : State) (p q : Nat), s.phase = .check → s.decoderMoves → step s = .next t → t.outcome = some .decoded →
    s'.phase = .check → s'.decoderMoves → p < 328 → q < 328 → p ≠ q →
    (s'.bufBytes 41 = flipBit p (s.bufBytes 41) ∨ s'.bufBytes 41 = flipBit q (flipBit p (s.bufBytes 41))) →
    step s' = .next { s' with
      agenda := s'.agenda.tail, outcome := some .badChecksum, rsp := 0#32,
      responses := s'.responses ++ [0#32], phase := .idle }) ∧
  (∀ (s : State) (i : Fin 6) (k : Nat) (rest : List Byte), s.phase = .sync i → s.decoderMoves → k < 8 →
    s.src = (0xFA#8 ^^^ (1#8 <<< k)) :: rest →
    ∃ t, step s = .next t ∧ t.src = rest ∧ t.sync = s.sync ∧ ∀ j, t.phase ≠ .read j)

/-! ## UPDATE as a whole -/

/-- R100, R114, R200: with 4 or fewer bytes available UPDATE ends NO_DATA after 2 steps: it responds 0 and consumes
nothing. That the buffer keeps its bytes when the UPDATE has ended is the model's choice (Assumption 21). -/
def Obligations.UpdateWithoutData : Prop :=
  ∀ (s : State) (cmds : List Byte), s.phase = .idle → s.agenda = [] → s.cmds = 0x00#8 :: cmds → s.src.length ≤ 4 →
    run 2 s = .next { s with
      cmds := cmds, sync := false, outcome := some .noData, rsp := 0#32, responses := s.responses ++ [0#32] }

/-- R100, R110, R114, R200: with no marker among the first six bytes UPDATE ends NO_SYNC after 8 steps: it responds 0
and exactly those six bytes are gone. That the buffer keeps its bytes when the UPDATE has ended is the model's choice
(Assumption 21). -/
def Obligations.UpdateWithoutMarker : Prop :=
  ∀ (s : State) (cmds noise rest : List Byte), s.phase = .idle → s.agenda = [] → s.cmds = 0x00#8 :: cmds →
    s.src = noise ++ rest → noise.length = 6 → 0xFA#8 ∉ noise →
    run 8 s = .next { s with
      cmds := cmds, sync := false, src := rest, outcome := some .noSync, rsp := 0#32,
      responses := s.responses ++ [0#32] }

/-- R100, R109, R110, R111, R114, R200: with `p <= 5` other bytes before the marker and 41 bytes after it, UPDATE ends
after `2 + (p + 1) + 41 + 1` steps with `p + 42` bytes consumed. Whatever the 41 bytes hold they are the record: if it
is valid its nine fields are committed and the response is 1, else `x` stays and the response is 0; nothing else
changes. That the buffer still holds the record when the UPDATE has ended is the model's choice (Assumption 21). -/
def Obligations.UpdateReadsFrame : Prop :=
  ∀ (s : State) (cmds noise r rest : List Byte), s.phase = .idle → s.agenda = [] → s.cmds = 0x00#8 :: cmds →
    s.src = noise ++ 0xFA#8 :: (r ++ rest) → noise.length ≤ 5 → 0xFA#8 ∉ noise → recordWellFormed r = true →
    ∃ t, run (2 + (noise.length + 1) + 41 + 1) s = .next t ∧
      (∀ a, a < 41 → t.bufByte a = recordByteAt r a) ∧ (∀ a, 41 ≤ a → t.bufByte a = s.bufByte a) ∧
      (recordValid r = true → { t with buf := s.buf } = { s with
        cmds := cmds, sync := true, src := rest, x := recordFields r, outcome := some .decoded, rsp := 1#32,
        responses := s.responses ++ [1#32] }) ∧
      (recordValid r = false → { t with buf := s.buf } = { s with
        cmds := cmds, sync := true, src := rest, outcome := some .badChecksum, rsp := 0#32,
        responses := s.responses ++ [0#32] })

/-- R172: the round trip. Nine words and three header bytes, laid out as a record with its checksum and sent after the
marker, come back as the Decoded State bit for bit, and UPDATE responds 1. -/
def Obligations.FrameRoundTrip : Prop :=
  ∀ (s : State) (cmds noise rest : List Byte) (h0 h1 h2 : Byte) (d : DecodedState), s.phase = .idle → s.agenda = [] →
    s.cmds = 0x00#8 :: cmds → s.src = noise ++ 0xFA#8 :: (encodeRecord h0 h1 h2 d ++ rest) → noise.length ≤ 5 →
    0xFA#8 ∉ noise →
    ∃ t, run (2 + (noise.length + 1) + 41 + 1) s = .next t ∧
      t.phase = .idle ∧ t.x = d ∧ t.rsp = 1#32 ∧ t.responses = s.responses ++ [1#32] ∧ t.src = rest

/-- R55, R69, R110, R116: once a search has started, what the UPDATE does depends only on the bytes in their order,
not on when they arrive. Under every schedule of decoder turns and arrivals, if the bytes bring the marker among the
first six and 41 bytes after it, the UPDATE ends with the record's result; if their first six hold no marker, it ends
NO_SYNC with exactly those six consumed. Turns that the decoder has while it waits count as steps, which is the model's
choice (Assumption 10), so the bounds are one step per scheduled turn and 48 more, or 6 more, and are no durations. -/
def Obligations.UpdateUnderAnyArrivals : Prop :=
  ∀ s : State, s.phase = .sync 0 → s.agenda.all decoderOrArrival = true →
    (∀ noise r rest : List Byte, s.src ++ arrivalsOf s.agenda = noise ++ 0xFA#8 :: (r ++ rest) → noise.length ≤ 5 →
      0xFA#8 ∉ noise → recordWellFormed r = true →
      ∃ n t, n ≤ s.agenda.length + 48 ∧ run n s = .next t ∧
        t.phase = .idle ∧ t.sync = true ∧ t.src ++ arrivalsOf t.agenda = rest ∧ t.cmds = s.cmds ∧
        (recordValid r = true →
          t.x = recordFields r ∧ t.outcome = some .decoded ∧ t.responses = s.responses ++ [1#32]) ∧
        (recordValid r = false →
          t.x = s.x ∧ t.outcome = some .badChecksum ∧ t.responses = s.responses ++ [0#32])) ∧
    (∀ noise rest : List Byte, s.src ++ arrivalsOf s.agenda = noise ++ rest → noise.length = 6 → 0xFA#8 ∉ noise →
      ∃ n t, n ≤ s.agenda.length + 6 ∧ run n s = .next t ∧
        t.phase = .idle ∧ t.sync = s.sync ∧ t.src ++ arrivalsOf t.agenda = rest ∧ t.cmds = s.cmds ∧
        t.x = s.x ∧ t.outcome = some .noSync ∧ t.responses = s.responses ++ [0#32])

/-- R21, R55: with the bytes it can wait for already there (6 for a search, 41 for a frame), a command in progress
ends within 49 transitions, whatever the bytes are, with one response. -/
def Obligations.FedUpdateEnds : Prop :=
  ∀ s : State, s.phase ≠ .idle → s.agenda = [] → 47 ≤ s.src.length →
    ∃ n t, n ≤ 49 ∧ run n s = .next t ∧ t.phase = .idle ∧
      (t.rsp = 0#32 ∨ t.rsp = 1#32) ∧ t.responses = s.responses ++ [t.rsp]

/-! ## Whole-machine rules -/

/-- The invariant holds after reset. -/
def Obligations.InvariantAtReset : Prop := State.reset.Inv

/-- Every step keeps the invariant: the buffer stays in canonical form within 0..40 (R28, R50); `sync` is false until
the marker is read, true from then on, and after an UPDATE tells whether it found a marker (R24); in `READ(j)` the
cells below `j` and in `CHECK` all 41 cells have been written (R21, R28). -/
def Obligations.StepKeepsInvariant : Prop :=
  ∀ s t : State, s.Inv → step s = .next t → t.Inv

/-- R25, R26, R27, R109: `x` changes only as a whole: by the commit of a valid record in `CHECK`, together with the
response 1, or by reset. -/
def Obligations.DecodedStateChangesOnlyByCommit : Prop :=
  ∀ s t : State, step s = .next t →
    t.x = s.x ∨
    (s.nextTurn = .reset ∧ t.x = DecodedState.initial) ∨
    (s.decoderMoves ∧ s.phase = .check ∧ recordValid (s.bufBytes 41) = true ∧ t.x = recordFields (s.bufBytes 41) ∧
      t.outcome = some .decoded ∧ t.responses = s.responses ++ [1#32])

/-- R24: `sync` is written in two places (and by reset): false when an UPDATE is accepted, true when a search reads
the marker. -/
def Obligations.SyncChangesOnlyAtMarkerOrAcceptance : Prop :=
  ∀ s t : State, step s = .next t →
    t.sync = s.sync ∨
    (s.nextTurn = .reset ∧ t.sync = false) ∨
    (s.decoderMoves ∧ s.phase = .idle ∧ t.phase = .avail ∧ s.cmds = 0x00#8 :: t.cmds ∧ t.sync = false) ∨
    (s.decoderMoves ∧ (∃ i, s.phase = .sync i) ∧ t.phase = .read 0 ∧ s.src = 0xFA#8 :: t.src ∧ t.sync = true)

/-- R28: a buffer cell changes only when the frame read `READ(j)` stores the j-th record byte in it, or by reset. That
it changes by nothing else between commands too is the model's choice (Assumption 21). -/
def Obligations.BufferWrittenOnlyByFrameRead : Prop :=
  ∀ (s t : State) (a : Nat), step s = .next t → s.nextTurn ≠ .reset →
    t.bufByte a = s.bufByte a ∨
    (s.decoderMoves ∧ (∃ j, s.phase = .read j ∧ a = j.val) ∧ s.src = t.bufByte a :: t.src)

/-- R50, R52, R54, R62, R64: a step leaves the backlog alone, appends an arrival to its end, or, in the search or the
frame read, takes exactly its oldest byte. -/
def Obligations.SourceConsumedInOrder : Prop :=
  ∀ s t : State, step s = .next t →
    t.src = s.src ∨
    (∃ bytes, s.nextTurn = .arrive bytes ∧ t.src = s.src ++ bytes) ∨
    (s.decoderMoves ∧ ((∃ i, s.phase = .sync i) ∨ (∃ j, s.phase = .read j)) ∧ ∃ b, s.src = b :: t.src)

/-- R21, R75, R207, R230: the only ways from one phase to another. -/
def Obligations.PhaseAdvancesAsStated : Prop :=
  ∀ s t : State, step s = .next t →
    t.phase = s.phase ∨
    (s.nextTurn = .reset ∧ t.phase = .idle) ∨
    (s.decoderMoves ∧
      ((s.phase = .idle ∧ t.phase = .avail) ∨
       (s.phase = .avail ∧ (t.phase = .sync 0 ∨ t.phase = .idle)) ∨
       (∃ i, s.phase = .sync i ∧
         (t.phase = .read 0 ∨ (∃ h : i.val + 1 < 6, t.phase = .sync ⟨i.val + 1, h⟩) ∨
           (i.val = 5 ∧ t.phase = .idle))) ∨
       (∃ j, s.phase = .read j ∧
         ((∃ h : j.val + 1 < 41, t.phase = .read ⟨j.val + 1, h⟩) ∨ (j.val = 40 ∧ t.phase = .check))) ∨
       (s.phase = .check ∧ t.phase = .idle)))

/-- R75, R76: every accepted command gets exactly one response. Counted over every step but reset: the responses
given, the commands still to be accepted and the one in progress keep their sum, up to the command a turn adds. -/
def Obligations.OneResponsePerCommand : Prop :=
  ∀ s t : State, step s = .next t → s.nextTurn ≠ .reset →
    t.responses.length + t.cmds.length + inProgress t =
      s.responses.length + s.cmds.length + inProgress s + presents s.nextTurn

/-- R29, R76: the response register changes only with a response, which it then holds, or by reset; and a response is
given only by the step that leaves the core `IDLE`. -/
def Obligations.ResponseRegisterHoldsLastResponse : Prop :=
  ∀ s t : State, step s = .next t → s.nextTurn ≠ .reset →
    (t.rsp = s.rsp ∧ t.responses = s.responses) ∨
    (s.decoderMoves ∧ t.phase = .idle ∧ t.responses = s.responses ++ [t.rsp])

/-- R24, R28, R29, R34: the buffer's contents between commands, `sync` and the response register are never observed.
Two machines that are `IDLE` and agree on `x`, the Byte Source, the caller's commands and the schedule, whatever the
rest of their state holds, run alike: the same phases, the same `x`, the same bytes left and the same responses, for
any number of steps, or the same refusal. -/
def Obligations.HiddenStateNeverObserved : Prop :=
  ∀ (n : Nat) (s s' : State), s.phase = .idle → s'.phase = .idle → s'.x = s.x → s'.src = s.src → s'.cmds = s.cmds →
    s'.agenda = s.agenda →
    (∀ t, run n s = .next t →
      ∃ t' given, run n s' = .next t' ∧ t'.phase = t.phase ∧ t'.x = t.x ∧ t'.src = t.src ∧
        t'.cmds = t.cmds ∧ t'.agenda = t.agenda ∧
        t.responses = s.responses ++ given ∧ t'.responses = s'.responses ++ given) ∧
    (∀ r, run n s = .refused r → run n s' = .refused r)

/-- R53, R69, R116: outside the threshold's sample and a wait, it makes no difference whether an arrival comes just
before or just after a step of the decoder. -/
def Obligations.ArrivalCommutesWithDecoderStep : Prop :=
  ∀ (s : State) (bytes : List Byte) (turns : List Turn), s.phase ≠ .avail → s.waiting = false →
    run 2 { s with agenda := .arrive bytes :: .decoder :: turns } =
      run 2 { s with agenda := .decoder :: .arrive bytes :: turns }

/-- R24, R28, R29, R34: the step lemma behind `HiddenStateNeverObserved`. Two machines that look alike still look alike
after a step of each, in every phase and whatever turn is taken, and give the same response or none; and where one is
refused, so is the other. -/
def Obligations.StepKeepsLooksAlike : Prop :=
  ∀ s s' : State, looksAlike s s' →
    (∀ t, step s = .next t →
      ∃ t' given, step s' = .next t' ∧ looksAlike t t' ∧
        t.responses = s.responses ++ given ∧ t'.responses = s'.responses ++ given) ∧
    (∀ r, step s = .refused r → step s' = .refused r)
end

