-- ==== Sys2Proof/Laws/State.lean ====
section
/-! SUPPORT. One lemma per field of the state and per update of it, true by `rfl`, so that no proof unfolds a record
update. -/

namespace Sys2Proof.Machine

variable (s : State)

/-! ## `clearSync` -/

@[simp] theorem State.clearSync_phase : (s.clearSync).phase = s.phase := rfl
@[simp] theorem State.clearSync_sync : (s.clearSync).sync = false := rfl
@[simp] theorem State.clearSync_buf : (s.clearSync).buf = s.buf := rfl
@[simp] theorem State.clearSync_x : (s.clearSync).x = s.x := rfl
@[simp] theorem State.clearSync_rsp : (s.clearSync).rsp = s.rsp := rfl
@[simp] theorem State.clearSync_src : (s.clearSync).src = s.src := rfl
@[simp] theorem State.clearSync_cmds : (s.clearSync).cmds = s.cmds := rfl
@[simp] theorem State.clearSync_agenda : (s.clearSync).agenda = s.agenda := rfl
@[simp] theorem State.clearSync_outcome : (s.clearSync).outcome = s.outcome := rfl
@[simp] theorem State.clearSync_responses : (s.clearSync).responses = s.responses := rfl
@[simp] theorem State.clearSync_resets : (s.clearSync).resets = s.resets := rfl

/-! ## `setSync` -/

@[simp] theorem State.setSync_phase : (s.setSync).phase = s.phase := rfl
@[simp] theorem State.setSync_sync : (s.setSync).sync = true := rfl
@[simp] theorem State.setSync_buf : (s.setSync).buf = s.buf := rfl
@[simp] theorem State.setSync_x : (s.setSync).x = s.x := rfl
@[simp] theorem State.setSync_rsp : (s.setSync).rsp = s.rsp := rfl
@[simp] theorem State.setSync_src : (s.setSync).src = s.src := rfl
@[simp] theorem State.setSync_cmds : (s.setSync).cmds = s.cmds := rfl
@[simp] theorem State.setSync_agenda : (s.setSync).agenda = s.agenda := rfl
@[simp] theorem State.setSync_outcome : (s.setSync).outcome = s.outcome := rfl
@[simp] theorem State.setSync_responses : (s.setSync).responses = s.responses := rfl
@[simp] theorem State.setSync_resets : (s.setSync).resets = s.resets := rfl

/-! ## `writeBuf` -/

@[simp] theorem State.writeBuf_phase (j : Fin 41) (b : Byte) : (s.writeBuf j b).phase = s.phase := rfl
@[simp] theorem State.writeBuf_sync (j : Fin 41) (b : Byte) : (s.writeBuf j b).sync = s.sync := rfl
@[simp] theorem State.writeBuf_buf (j : Fin 41) (b : Byte) : (s.writeBuf j b).buf = s.buf.write j.val b := rfl
@[simp] theorem State.writeBuf_x (j : Fin 41) (b : Byte) : (s.writeBuf j b).x = s.x := rfl
@[simp] theorem State.writeBuf_rsp (j : Fin 41) (b : Byte) : (s.writeBuf j b).rsp = s.rsp := rfl
@[simp] theorem State.writeBuf_src (j : Fin 41) (b : Byte) : (s.writeBuf j b).src = s.src := rfl
@[simp] theorem State.writeBuf_cmds (j : Fin 41) (b : Byte) : (s.writeBuf j b).cmds = s.cmds := rfl
@[simp] theorem State.writeBuf_agenda (j : Fin 41) (b : Byte) : (s.writeBuf j b).agenda = s.agenda := rfl
@[simp] theorem State.writeBuf_outcome (j : Fin 41) (b : Byte) : (s.writeBuf j b).outcome = s.outcome := rfl
@[simp] theorem State.writeBuf_responses (j : Fin 41) (b : Byte) : (s.writeBuf j b).responses = s.responses := rfl
@[simp] theorem State.writeBuf_resets (j : Fin 41) (b : Byte) : (s.writeBuf j b).resets = s.resets := rfl

/-! ## `arrive` -/

@[simp] theorem State.arrive_phase (bytes : List Byte) : (s.arrive bytes).phase = s.phase := rfl
@[simp] theorem State.arrive_sync (bytes : List Byte) : (s.arrive bytes).sync = s.sync := rfl
@[simp] theorem State.arrive_buf (bytes : List Byte) : (s.arrive bytes).buf = s.buf := rfl
@[simp] theorem State.arrive_x (bytes : List Byte) : (s.arrive bytes).x = s.x := rfl
@[simp] theorem State.arrive_rsp (bytes : List Byte) : (s.arrive bytes).rsp = s.rsp := rfl
@[simp] theorem State.arrive_src (bytes : List Byte) : (s.arrive bytes).src = s.src ++ bytes := rfl
@[simp] theorem State.arrive_cmds (bytes : List Byte) : (s.arrive bytes).cmds = s.cmds := rfl
@[simp] theorem State.arrive_agenda (bytes : List Byte) : (s.arrive bytes).agenda = s.agenda := rfl
@[simp] theorem State.arrive_outcome (bytes : List Byte) : (s.arrive bytes).outcome = s.outcome := rfl
@[simp] theorem State.arrive_responses (bytes : List Byte) : (s.arrive bytes).responses = s.responses := rfl
@[simp] theorem State.arrive_resets (bytes : List Byte) : (s.arrive bytes).resets = s.resets := rfl

/-! ## `present` -/

@[simp] theorem State.present_phase (c : Byte) : (s.present c).phase = s.phase := rfl
@[simp] theorem State.present_sync (c : Byte) : (s.present c).sync = s.sync := rfl
@[simp] theorem State.present_buf (c : Byte) : (s.present c).buf = s.buf := rfl
@[simp] theorem State.present_x (c : Byte) : (s.present c).x = s.x := rfl
@[simp] theorem State.present_rsp (c : Byte) : (s.present c).rsp = s.rsp := rfl
@[simp] theorem State.present_src (c : Byte) : (s.present c).src = s.src := rfl
@[simp] theorem State.present_cmds (c : Byte) : (s.present c).cmds = s.cmds ++ [c] := rfl
@[simp] theorem State.present_agenda (c : Byte) : (s.present c).agenda = s.agenda := rfl
@[simp] theorem State.present_outcome (c : Byte) : (s.present c).outcome = s.outcome := rfl
@[simp] theorem State.present_responses (c : Byte) : (s.present c).responses = s.responses := rfl
@[simp] theorem State.present_resets (c : Byte) : (s.present c).resets = s.resets := rfl

/-! ## `goto` -/

@[simp] theorem State.goto_phase (target : Phase) : (s.goto target).phase = target := rfl
@[simp] theorem State.goto_sync (target : Phase) : (s.goto target).sync = s.sync := rfl
@[simp] theorem State.goto_buf (target : Phase) : (s.goto target).buf = s.buf := rfl
@[simp] theorem State.goto_x (target : Phase) : (s.goto target).x = s.x := rfl
@[simp] theorem State.goto_rsp (target : Phase) : (s.goto target).rsp = s.rsp := rfl
@[simp] theorem State.goto_src (target : Phase) : (s.goto target).src = s.src := rfl
@[simp] theorem State.goto_cmds (target : Phase) : (s.goto target).cmds = s.cmds := rfl
@[simp] theorem State.goto_agenda (target : Phase) : (s.goto target).agenda = s.agenda := rfl
@[simp] theorem State.goto_outcome (target : Phase) : (s.goto target).outcome = s.outcome := rfl
@[simp] theorem State.goto_responses (target : Phase) : (s.goto target).responses = s.responses := rfl
@[simp] theorem State.goto_resets (target : Phase) : (s.goto target).resets = s.resets := rfl

/-! ## `respond` -/

@[simp] theorem State.respond_phase (v : Word32) : (s.respond v).phase = .idle := rfl
@[simp] theorem State.respond_sync (v : Word32) : (s.respond v).sync = s.sync := rfl
@[simp] theorem State.respond_buf (v : Word32) : (s.respond v).buf = s.buf := rfl
@[simp] theorem State.respond_x (v : Word32) : (s.respond v).x = s.x := rfl
@[simp] theorem State.respond_rsp (v : Word32) : (s.respond v).rsp = v := rfl
@[simp] theorem State.respond_src (v : Word32) : (s.respond v).src = s.src := rfl
@[simp] theorem State.respond_cmds (v : Word32) : (s.respond v).cmds = s.cmds := rfl
@[simp] theorem State.respond_agenda (v : Word32) : (s.respond v).agenda = s.agenda := rfl
@[simp] theorem State.respond_outcome (v : Word32) : (s.respond v).outcome = s.outcome := rfl
@[simp] theorem State.respond_responses (v : Word32) : (s.respond v).responses = s.responses ++ [v] := rfl
@[simp] theorem State.respond_resets (v : Word32) : (s.respond v).resets = s.resets := rfl

/-! ## `finishUpdate` -/

@[simp] theorem State.finishUpdate_phase (o : UpdateOutcome) (v : Word32) : (s.finishUpdate o v).phase = .idle := rfl
@[simp] theorem State.finishUpdate_sync (o : UpdateOutcome) (v : Word32) : (s.finishUpdate o v).sync = s.sync := rfl
@[simp] theorem State.finishUpdate_buf (o : UpdateOutcome) (v : Word32) : (s.finishUpdate o v).buf = s.buf := rfl
@[simp] theorem State.finishUpdate_x (o : UpdateOutcome) (v : Word32) : (s.finishUpdate o v).x = s.x := rfl
@[simp] theorem State.finishUpdate_rsp (o : UpdateOutcome) (v : Word32) : (s.finishUpdate o v).rsp = v := rfl
@[simp] theorem State.finishUpdate_src (o : UpdateOutcome) (v : Word32) : (s.finishUpdate o v).src = s.src := rfl
@[simp] theorem State.finishUpdate_cmds (o : UpdateOutcome) (v : Word32) : (s.finishUpdate o v).cmds = s.cmds := rfl
@[simp] theorem State.finishUpdate_agenda (o : UpdateOutcome) (v : Word32) :
    (s.finishUpdate o v).agenda = s.agenda := rfl
@[simp] theorem State.finishUpdate_outcome (o : UpdateOutcome) (v : Word32) :
    (s.finishUpdate o v).outcome = some o := rfl
@[simp] theorem State.finishUpdate_responses (o : UpdateOutcome) (v : Word32) :
    (s.finishUpdate o v).responses = s.responses ++ [v] := rfl
@[simp] theorem State.finishUpdate_resets (o : UpdateOutcome) (v : Word32) :
    (s.finishUpdate o v).resets = s.resets := rfl

/-! ## `resetCore` -/

@[simp] theorem State.resetCore_phase : (s.resetCore).phase = .idle := rfl
@[simp] theorem State.resetCore_sync : (s.resetCore).sync = false := rfl
@[simp] theorem State.resetCore_buf : (s.resetCore).buf = [] := rfl
@[simp] theorem State.resetCore_x : (s.resetCore).x = DecodedState.initial := rfl
@[simp] theorem State.resetCore_rsp : (s.resetCore).rsp = Config.unspecifiedResponse (s.resets + 1) := rfl
@[simp] theorem State.resetCore_src : (s.resetCore).src = s.src := rfl
@[simp] theorem State.resetCore_cmds : (s.resetCore).cmds = s.cmds := rfl
@[simp] theorem State.resetCore_agenda : (s.resetCore).agenda = s.agenda := rfl
@[simp] theorem State.resetCore_outcome : (s.resetCore).outcome = none := rfl
@[simp] theorem State.resetCore_responses : (s.resetCore).responses = s.responses := rfl
@[simp] theorem State.resetCore_resets : (s.resetCore).resets = s.resets + 1 := rfl

/-! ## `popTurn` -/

@[simp] theorem State.popTurn_phase : (s.popTurn).phase = s.phase := rfl
@[simp] theorem State.popTurn_sync : (s.popTurn).sync = s.sync := rfl
@[simp] theorem State.popTurn_buf : (s.popTurn).buf = s.buf := rfl
@[simp] theorem State.popTurn_x : (s.popTurn).x = s.x := rfl
@[simp] theorem State.popTurn_rsp : (s.popTurn).rsp = s.rsp := rfl
@[simp] theorem State.popTurn_src : (s.popTurn).src = s.src := rfl
@[simp] theorem State.popTurn_cmds : (s.popTurn).cmds = s.cmds := rfl
@[simp] theorem State.popTurn_agenda : (s.popTurn).agenda = s.agenda.tail := rfl
@[simp] theorem State.popTurn_outcome : (s.popTurn).outcome = s.outcome := rfl
@[simp] theorem State.popTurn_responses : (s.popTurn).responses = s.responses := rfl
@[simp] theorem State.popTurn_resets : (s.popTurn).resets = s.resets := rfl

/-! ## `presentNext` -/

@[simp] theorem State.presentNext_phase (c : Byte) : (s.presentNext c).phase = .idle := rfl
@[simp] theorem State.presentNext_sync (c : Byte) : (s.presentNext c).sync = s.sync := rfl
@[simp] theorem State.presentNext_buf (c : Byte) : (s.presentNext c).buf = s.buf := rfl
@[simp] theorem State.presentNext_x (c : Byte) : (s.presentNext c).x = s.x := rfl
@[simp] theorem State.presentNext_rsp (c : Byte) : (s.presentNext c).rsp = s.rsp := rfl
@[simp] theorem State.presentNext_src (c : Byte) : (s.presentNext c).src = s.src := rfl
@[simp] theorem State.presentNext_cmds (c : Byte) : (s.presentNext c).cmds = c :: s.cmds := rfl
@[simp] theorem State.presentNext_agenda (c : Byte) : (s.presentNext c).agenda = .decoder :: s.agenda := rfl
@[simp] theorem State.presentNext_outcome (c : Byte) : (s.presentNext c).outcome = s.outcome := rfl
@[simp] theorem State.presentNext_responses (c : Byte) : (s.presentNext c).responses = s.responses := rfl
@[simp] theorem State.presentNext_resets (c : Byte) : (s.presentNext c).resets = s.resets := rfl

/-! ## Reads that an update leaves alone -/

theorem State.bufByte_congr {s t : State} (hb : t.buf = s.buf) (hr : t.resets = s.resets) (a : Nat) :
    t.bufByte a = s.bufByte a := by
  simp [State.bufByte, hb, hr]

@[simp] theorem State.clearSync_bufByte (a : Nat) : s.clearSync.bufByte a = s.bufByte a := rfl
@[simp] theorem State.setSync_bufByte (a : Nat) : s.setSync.bufByte a = s.bufByte a := rfl
@[simp] theorem State.popTurn_bufByte (a : Nat) : s.popTurn.bufByte a = s.bufByte a := rfl
@[simp] theorem State.arrive_bufByte (bytes : List Byte) (a : Nat) : (s.arrive bytes).bufByte a = s.bufByte a := rfl
@[simp] theorem State.present_bufByte (c : Byte) (a : Nat) : (s.present c).bufByte a = s.bufByte a := rfl
@[simp] theorem State.goto_bufByte (target : Phase) (a : Nat) : (s.goto target).bufByte a = s.bufByte a := rfl
@[simp] theorem State.respond_bufByte (v : Word32) (a : Nat) : (s.respond v).bufByte a = s.bufByte a := rfl
@[simp] theorem State.finishUpdate_bufByte (o : UpdateOutcome) (v : Word32) (a : Nat) :
    (s.finishUpdate o v).bufByte a = s.bufByte a := rfl

/-! ## Derived reads -/

@[simp] theorem State.popTurn_bufBytes (n : Nat) : s.popTurn.bufBytes n = s.bufBytes n := rfl
@[simp] theorem State.popTurn_bufFields : s.popTurn.bufFields = s.bufFields := rfl
@[simp] theorem State.popTurn_bufValid : s.popTurn.bufValid = s.bufValid := rfl
@[simp] theorem State.popTurn_waiting : s.popTurn.waiting = s.waiting := rfl
@[simp] theorem State.popTurn_presented : s.popTurn.presented = s.presented := rfl

/-- `valid` says that the computed checksum equals the stored one (R105). -/
theorem State.bufValid_iff :
    s.bufValid = true ↔ crc16 (s.bufBytes 39) = be16 (s.bufByte 39) (s.bufByte 40) := by
  simp [State.bufValid, State.computedChecksum, State.storedChecksum]

theorem State.bufBytes_congr {s t : State} {n : Nat} (h : ∀ a, a < n → t.bufByte a = s.bufByte a) :
    t.bufBytes n = s.bufBytes n :=
  List.map_congr_left fun a ha => h a (List.mem_range.1 ha)

@[simp] theorem State.bufBytes_length (n : Nat) : (s.bufBytes n).length = n := by simp [State.bufBytes]

theorem State.busy_iff : s.busy = true ↔ s.phase ≠ .idle := by simp [State.busy]

theorem State.not_busy_iff : s.busy = false ↔ s.phase = .idle := by simp [State.busy]

@[simp] theorem State.presentNext_nextTurn (c : Byte) : (s.presentNext c).nextTurn = .decoder := rfl

@[simp] theorem State.presentNext_presented (c : Byte) : (s.presentNext c).presented = some c := rfl

end Sys2Proof.Machine
end

