-- ==== Sys2Proof/Laws/Crc.lean ====
section
/-! SUPPORT. The checksum's recursion: one byte more is one more `crcByte`. -/

namespace Sys2Proof.Machine

@[simp] theorem crc16_nil : crc16 [] = 0#16 := rfl

theorem crc16_snoc (s : List Byte) (d : Byte) : crc16 (s ++ [d]) = crcByte (crc16 s) d := by
  simp [crc16, List.foldl_append]

theorem foldl_crcByte_cons (crc : Word16) (d : Byte) (s : List Byte) :
    (d :: s).foldl crcByte crc = s.foldl crcByte (crcByte crc d) := rfl

end Sys2Proof.Machine
end

