-- ==== Sys2Proof/Laws/Decode.lean ====
section
/-! SUPPORT. What the decoder can answer. -/

namespace Sys2Proof

/-- The decoder rejects a word only under its own name. -/
theorem decodeWord_error {c : Byte} {r : Reject} (h : decodeWord c = .error r) : r = .reservedCommand c := by
  unfold decodeWord at h
  split_ifs at h
  · split at h <;> simp_all
  · simp_all

theorem decodeWord_ok_or_reserved (c : Byte) :
    (∃ i, decodeWord c = .ok i) ∨ decodeWord c = .error (.reservedCommand c) := by
  cases h : decodeWord c with
  | ok i => exact .inl ⟨i, rfl⟩
  | error r => exact .inr (by rw [decodeWord_error h])

theorem decode_cons_ok {c : Byte} {i : Instr} (h : decodeWord c = .ok i) (rest : List Byte) :
    decode (c :: rest) = .ok (i, rest) := by
  simp [decode, h]

theorem decode_cons_error {c : Byte} {r : Reject} (h : decodeWord c = .error r) (rest : List Byte) :
    decode (c :: rest) = .error r := by
  simp [decode, h]

end Sys2Proof
end

