-- ==== Sys2Proof/Laws/Memory.lean ====
section
/-! SUPPORT. The scratch buffer's laws: a read after a write, the frame of a write, and that every operation keeps the
canonical form. -/

namespace Sys2Proof.Machine

@[simp] theorem Memory.lookup_nil (k : Nat) : Memory.lookup [] k = none := rfl

theorem Memory.lookup_cons (a : Nat) (b : Byte) (m : Memory) (k : Nat) :
    Memory.lookup ((a, b) :: m) k = if a = k then some b else Memory.lookup m k := rfl

/-- Read after write: the cell written holds the byte written, every other cell is as before. -/
theorem Memory.lookup_write (m : Memory) (k : Nat) (v : Byte) (a : Nat) :
    (m.write k v).lookup a = if a = k then some v else m.lookup a := by
  induction m with
  | nil => simp [Memory.write, Memory.lookup, eq_comm]
  | cons head rest ih =>
    obtain ⟨a', b'⟩ := head
    unfold Memory.write
    by_cases hlt : k < a'
    · rw [if_pos hlt, Memory.lookup_cons]
      simp only [eq_comm]
    · rw [if_neg hlt]
      by_cases heq : k = a'
      · subst heq
        rw [if_pos rfl, Memory.lookup_cons, Memory.lookup_cons]
        by_cases hak : a = k
        · simp [hak]
        · simp [hak, Ne.symm hak]
      · rw [if_neg heq, Memory.lookup_cons, Memory.lookup_cons, ih]
        by_cases hak : a' = a
        · have : ¬ a = k := by omega
          simp [hak, this]
        · simp [hak]

@[simp] theorem Memory.lookup_write_same (m : Memory) (k : Nat) (v : Byte) : (m.write k v).lookup k = some v := by
  simp [Memory.lookup_write]

theorem Memory.lookup_write_other (m : Memory) {k a : Nat} (v : Byte) (h : a ≠ k) :
    (m.write k v).lookup a = m.lookup a := by
  simp [Memory.lookup_write, h]

@[simp] theorem Memory.wfFrom_nil (low : Nat) : Memory.wfFrom low [] = true := rfl

theorem Memory.wfFrom_cons (low a : Nat) (b : Byte) (m : Memory) :
    Memory.wfFrom low ((a, b) :: m) = true ↔ low ≤ a ∧ a < 41 ∧ Memory.wfFrom (a + 1) m = true := by
  simp [Memory.wfFrom, and_assoc]

theorem Memory.wfFrom_mono {low low' : Nat} (m : Memory) (h : low' ≤ low) (hm : Memory.wfFrom low m = true) :
    Memory.wfFrom low' m = true := by
  cases m with
  | nil => rfl
  | cons head rest =>
    obtain ⟨a, b⟩ := head
    rw [Memory.wfFrom_cons] at hm ⊢
    exact ⟨by omega, hm.2⟩

theorem Memory.wfFrom_write (m : Memory) (low k : Nat) (v : Byte) (hlow : low ≤ k) (hk : k < 41)
    (hm : Memory.wfFrom low m = true) : Memory.wfFrom low (m.write k v) = true := by
  induction m generalizing low with
  | nil => simp [Memory.write, Memory.wfFrom, hlow, hk]
  | cons head rest ih =>
    obtain ⟨a, b⟩ := head
    rw [Memory.wfFrom_cons] at hm
    simp only [Memory.write]
    split_ifs with hlt heq
    · rw [Memory.wfFrom_cons, Memory.wfFrom_cons]
      exact ⟨hlow, hk, by omega, hm.2⟩
    · subst heq
      rw [Memory.wfFrom_cons]
      exact ⟨hlow, hk, hm.2.2⟩
    · rw [Memory.wfFrom_cons]
      exact ⟨hm.1, hm.2.1, ih (a + 1) (by omega) hm.2.2⟩

/-- A write inside the buffer's address space keeps the canonical form. -/
theorem Memory.wf_write (m : Memory) (j : Fin 41) (v : Byte) (hm : m.wf = true) : (m.write j.val v).wf = true :=
  Memory.wfFrom_write m 0 j.val v (Nat.zero_le _) j.isLt hm

@[simp] theorem Memory.wf_nil : Memory.wf [] = true := rfl

theorem Memory.lookup_below (m : Memory) (low k : Nat) (hm : Memory.wfFrom low m = true) (hk : k < low) :
    m.lookup k = none := by
  induction m generalizing low with
  | nil => rfl
  | cons head rest ih =>
    obtain ⟨a, b⟩ := head
    rw [Memory.wfFrom_cons] at hm
    rw [Memory.lookup_cons, if_neg (by omega), ih (a + 1) hm.2.2 (by omega)]

/-- Canonical memories that read the same are the same data. -/
theorem Memory.ext_of_wfFrom (m m' : Memory) (low : Nat) (hm : Memory.wfFrom low m = true)
    (hm' : Memory.wfFrom low m' = true) (h : ∀ k, m.lookup k = m'.lookup k) : m = m' := by
  induction m generalizing m' low with
  | nil =>
    cases m' with
    | nil => rfl
    | cons head rest => simpa [Memory.lookup] using h head.1
  | cons head rest ih =>
    obtain ⟨a, b⟩ := head
    cases m' with
    | nil => simpa [Memory.lookup] using h a
    | cons head' rest' =>
      obtain ⟨a', b'⟩ := head'
      rw [Memory.wfFrom_cons] at hm hm'
      have ha : a = a' := by
        rcases Nat.lt_trichotomy a a' with hlt | heq | hgt
        · have := h a
          rw [Memory.lookup_cons, Memory.lookup_cons, if_pos rfl, if_neg (by omega),
            Memory.lookup_below rest' (a' + 1) a hm'.2.2 (by omega)] at this
          cases this
        · exact heq
        · have := h a'
          rw [Memory.lookup_cons, Memory.lookup_cons, if_pos rfl, if_neg (by omega),
            Memory.lookup_below rest (a + 1) a' hm.2.2 (by omega)] at this
          cases this
      subst ha
      have hb : b = b' := by simpa [Memory.lookup_cons] using h a
      subst hb
      rw [ih rest' (a + 1) hm.2.2 hm'.2.2]
      intro k
      by_cases hk : a = k
      · subst hk
        rw [Memory.lookup_below rest (a + 1) a hm.2.2 (by omega),
          Memory.lookup_below rest' (a + 1) a hm'.2.2 (by omega)]
      · simpa [Memory.lookup_cons, hk] using h k

/-- `buf[j] <- b` as reads see it: cell `j` holds `b`, every other cell is as before (R104). -/
theorem State.writeBuf_bufByte (s : State) (j : Fin 41) (b : Byte) (a : Nat) :
    (s.writeBuf j b).bufByte a = if a = j.val then b else s.bufByte a := by
  unfold State.bufByte
  simp only [State.writeBuf_buf, State.writeBuf_resets, Memory.lookup_write]
  split_ifs <;> rfl

end Sys2Proof.Machine
end

