-- ==== Sys2Proof/Laws/PerInstr.lean ====
section
/-! SUPPORT. One family of facts about the instruction as syntax: the word it encodes to keeps `op` and `k` in their
own nibbles (`spec/30_encoding.md` R77). -/

namespace Sys2Proof.Laws.WordFields

/-- The two nibbles of an instruction's word are its `op` and its `k`. -/
def Statement (i : Instr) : Prop :=
  commandOp (encode i) = i.opField ∧ commandIndex (encode i) = i.indexField

theorem update : Statement .update := ⟨rfl, rfl⟩
theorem getYaw : Statement .getYaw := ⟨rfl, rfl⟩
theorem getPitch : Statement .getPitch := ⟨rfl, rfl⟩
theorem getRoll : Statement .getRoll := ⟨rfl, rfl⟩
theorem getRatex : Statement .getRatex := ⟨rfl, rfl⟩
theorem getRatey : Statement .getRatey := ⟨rfl, rfl⟩
theorem getRatez : Statement .getRatez := ⟨rfl, rfl⟩
theorem getAccx : Statement .getAccx := ⟨rfl, rfl⟩
theorem getAccy : Statement .getAccy := ⟨rfl, rfl⟩
theorem getAccz : Statement .getAccz := ⟨rfl, rfl⟩

end Sys2Proof.Laws.WordFields
end

