-- ==== Sys2Proof/Laws/Transition.lean ====
section
/-! SUPPORT. One spec lemma per shared operation and per transition: everything it can do. -/

namespace Sys2Proof.Machine

/-! ## The handshake and the responses -/

theorem State.accept_idle {s : State} (h : s.phase = .idle) (command : State → State) :
    s.accept command = .next (command { s with cmds := s.cmds.tail }) := if_pos h

theorem State.accept_busy {s : State} (h : s.phase ≠ .idle) (command : State → State) :
    s.accept command = .next s := if_neg h

/-- A command is accepted, or held. -/
theorem State.accept_next {s t : State} {command : State → State} (h : s.accept command = .next t) :
    (s.phase = .idle ∧ t = command { s with cmds := s.cmds.tail }) ∨ (s.phase ≠ .idle ∧ t = s) := by
  by_cases hp : s.phase = .idle
  · rw [State.accept_idle hp] at h
    exact .inl ⟨hp, by cases h; rfl⟩
  · rw [State.accept_busy hp] at h
    exact .inr ⟨hp, by cases h; rfl⟩

/-- The field a GET reads; none for UPDATE (R79). -/
def getField : Instr → Option Field
  | .update => none
  | .getYaw => some .yaw
  | .getPitch => some .pitch
  | .getRoll => some .roll
  | .getRatex => some .rateX
  | .getRatey => some .rateY
  | .getRatez => some .rateZ
  | .getAccx => some .accX
  | .getAccy => some .accY
  | .getAccz => some .accZ

/-- `exec` as the two shapes of command: UPDATE is accepted, a GET is answered. -/
theorem exec_eq (i : Instr) (s : State) :
    exec i s = match getField i with
      | none => s.accept fun t => t.clearSync.goto .avail
      | some f => s.accept fun t => t.respond (readField t.x f) := by
  cases i <;> rfl

/-- No command's meaning stops: each answers a next state. -/
theorem exec_next (i : Instr) (s : State) : ∃ t, exec i s = .next t := by
  rw [exec_eq]
  cases getField i <;> simp only [State.accept] <;> split <;> exact ⟨_, rfl⟩

/-- Everything a command's own step can do: be held, be accepted (UPDATE), or be answered (GET). -/
theorem exec_cases {i : Instr} {s t : State} (h : exec i s = .next t) :
    (s.phase ≠ .idle ∧ t = s) ∨
    (s.phase = .idle ∧ i = .update ∧ t = { s with cmds := s.cmds.tail, sync := false, phase := .avail }) ∨
    (s.phase = .idle ∧ ∃ f, getField i = some f ∧
      t = { s with cmds := s.cmds.tail, rsp := readField s.x f,
                   responses := s.responses ++ [readField s.x f], phase := .idle }) := by
  rw [exec_eq] at h
  cases hf : getField i with
  | none =>
    rw [hf] at h
    have hi : i = .update := by cases i <;> simp [getField] at hf ⊢
    rcases State.accept_next h with ⟨hp, rfl⟩ | ⟨hp, rfl⟩
    · exact .inr (.inl ⟨hp, hi, rfl⟩)
    · exact .inl ⟨hp, rfl⟩
  | some f =>
    rw [hf] at h
    rcases State.accept_next h with ⟨hp, rfl⟩ | ⟨hp, rfl⟩
    · exact .inr (.inr ⟨hp, f, rfl, rfl⟩)
    · exact .inl ⟨hp, rfl⟩

/-! ## The Byte Source -/

theorem State.srcRead_nil {s : State} (h : s.src = []) : s.srcRead = none := by
  simp [State.srcRead, h]

theorem State.srcRead_cons {s : State} {b : Byte} {rest : List Byte} (h : s.src = b :: rest) :
    s.srcRead = some (b, { s with src := rest }) := by
  simp [State.srcRead, h]

/-! ## The transitions -/

theorem State.thresholdStep_cases (s : State) :
    (4 < s.src.length ∧ s.thresholdStep = { s with phase := .sync 0 }) ∨
    (s.src.length ≤ 4 ∧ s.thresholdStep = s.finishUpdate .noData updateFalse) := by
  by_cases h : 4 < s.src.length
  · exact .inl ⟨h, if_pos h⟩
  · exact .inr ⟨by omega, if_neg h⟩

theorem isMarker_iff (b : Byte) : isMarker b = true ↔ b = 0xFA#8 := by simp [isMarker]

theorem State.searchStep_cases (s : State) (i : Fin 6) :
    (s.src = [] ∧ s.searchStep i = s) ∨
    (∃ rest, s.src = 0xFA#8 :: rest ∧
      s.searchStep i = { s with src := rest, sync := true, phase := .read 0 }) ∨
    (∃ b rest, ∃ h : i.val + 1 < 6, s.src = b :: rest ∧ b ≠ 0xFA#8 ∧
      s.searchStep i = { s with src := rest, phase := .sync ⟨i.val + 1, h⟩ }) ∨
    (∃ b rest, s.src = b :: rest ∧ b ≠ 0xFA#8 ∧ i.val = 5 ∧
      s.searchStep i = { s with src := rest }.finishUpdate .noSync updateFalse) := by
  cases hs : s.src with
  | nil => exact .inl ⟨rfl, by simp [State.searchStep, State.srcRead_nil hs]⟩
  | cons b rest =>
    have hstep : s.searchStep i = { s with src := rest }.searchByte i b := by
      simp [State.searchStep, State.srcRead_cons hs]
    rw [hstep]
    by_cases hm : b = 0xFA#8
    · subst hm
      exact .inr (.inl ⟨rest, rfl, if_pos ((isMarker_iff _).2 rfl)⟩)
    · have hf : ¬ isMarker b = true := fun h => hm ((isMarker_iff b).1 h)
      by_cases hi : i.val + 1 < 6
      · refine .inr (.inr (.inl ⟨b, rest, hi, rfl, hm, ?_⟩))
        simp only [State.searchByte, if_neg hf, Config.syncScanMax, dif_pos hi]
        rfl
      · refine .inr (.inr (.inr ⟨b, rest, rfl, hm, by omega, ?_⟩))
        simp only [State.searchByte, if_neg hf, Config.syncScanMax, dif_neg hi]

theorem State.recordStep_cases (s : State) (j : Fin 41) :
    (s.src = [] ∧ s.recordStep j = s) ∨
    (∃ b rest, ∃ h : j.val + 1 < 41, s.src = b :: rest ∧
      s.recordStep j = { s with src := rest, buf := s.buf.write j.val b, phase := .read ⟨j.val + 1, h⟩ }) ∨
    (∃ b rest, s.src = b :: rest ∧ j.val = 40 ∧
      s.recordStep j = { s with src := rest, buf := s.buf.write j.val b, phase := .check }) := by
  cases hs : s.src with
  | nil => exact .inl ⟨rfl, by simp [State.recordStep, State.srcRead_nil hs]⟩
  | cons b rest =>
    have hstep : s.recordStep j = { s with src := rest }.recordByte j b := by
      simp [State.recordStep, State.srcRead_cons hs]
    rw [hstep]
    by_cases hj : j.val + 1 < 41
    · refine .inr (.inl ⟨b, rest, hj, rfl, ?_⟩)
      simp only [State.recordByte, Config.recordLen, dif_pos hj]
      rfl
    · refine .inr (.inr ⟨b, rest, rfl, by omega, ?_⟩)
      simp only [State.recordByte, Config.recordLen, dif_neg hj]
      rfl

theorem State.checkStep_cases (s : State) :
    (s.bufValid = true ∧ s.checkStep = { s with x := s.bufFields }.finishUpdate .decoded updateTrue) ∨
    (s.bufValid = false ∧ s.checkStep = s.finishUpdate .badChecksum updateFalse) := by
  cases h : s.bufValid with
  | true => exact .inl ⟨rfl, if_pos h⟩
  | false => exact .inr ⟨rfl, if_neg (by simp [h])⟩

/-- Everything one transition of the decoder can do, guards included (R102 to R108). -/
theorem State.transition_cases (s : State) :
    (s.transition = s ∧ (s.phase = .idle ∨ s.waiting = true)) ∨
    (s.phase = .avail ∧ 4 < s.src.length ∧ s.transition = { s with phase := .sync 0 }) ∨
    (s.phase = .avail ∧ s.src.length ≤ 4 ∧ s.transition = s.finishUpdate .noData updateFalse) ∨
    (∃ i rest, s.phase = .sync i ∧ s.src = 0xFA#8 :: rest ∧
      s.transition = { s with src := rest, sync := true, phase := .read 0 }) ∨
    (∃ i b rest, ∃ h : i.val + 1 < 6, s.phase = .sync i ∧ s.src = b :: rest ∧ b ≠ 0xFA#8 ∧
      s.transition = { s with src := rest, phase := .sync ⟨i.val + 1, h⟩ }) ∨
    (∃ b rest, s.phase = .sync 5 ∧ s.src = b :: rest ∧ b ≠ 0xFA#8 ∧
      s.transition = { s with src := rest }.finishUpdate .noSync updateFalse) ∨
    (∃ j b rest, ∃ h : j.val + 1 < 41, s.phase = .read j ∧ s.src = b :: rest ∧
      s.transition = { s with src := rest, buf := s.buf.write j.val b, phase := .read ⟨j.val + 1, h⟩ }) ∨
    (∃ b rest, s.phase = .read 40 ∧ s.src = b :: rest ∧
      s.transition = { s with src := rest, buf := s.buf.write 40 b, phase := .check }) ∨
    (s.phase = .check ∧ s.bufValid = true ∧
      s.transition = { s with x := s.bufFields }.finishUpdate .decoded updateTrue) ∨
    (s.phase = .check ∧ s.bufValid = false ∧ s.transition = s.finishUpdate .badChecksum updateFalse) := by
  cases hp : s.phase with
  | idle => exact .inl ⟨by simp [State.transition, hp], .inl rfl⟩
  | avail =>
    have ht : s.transition = s.thresholdStep := by simp [State.transition, hp]
    rw [ht]
    rcases s.thresholdStep_cases with h | h
    · exact .inr (.inl ⟨rfl, h⟩)
    · exact .inr (.inr (.inl ⟨rfl, h⟩))
  | sync i =>
    have ht : s.transition = s.searchStep i := by simp [State.transition, hp]
    rw [ht]
    rcases s.searchStep_cases i with ⟨hs, h⟩ | ⟨rest, hs, h⟩ | ⟨b, rest, hi, hs, hb, h⟩ | ⟨b, rest, hs, hb, hi, h⟩
    · exact .inl ⟨h, .inr (by simp [State.waiting, hp, hs])⟩
    · exact .inr (.inr (.inr (.inl ⟨i, rest, rfl, hs, h⟩)))
    · exact .inr (.inr (.inr (.inr (.inl ⟨i, b, rest, hi, rfl, hs, hb, h⟩))))
    · obtain rfl : i = 5 := Fin.ext hi
      exact .inr (.inr (.inr (.inr (.inr (.inl ⟨b, rest, rfl, hs, hb, h⟩)))))
  | read j =>
    have ht : s.transition = s.recordStep j := by simp [State.transition, hp]
    rw [ht]
    rcases s.recordStep_cases j with ⟨hs, h⟩ | ⟨b, rest, hj, hs, h⟩ | ⟨b, rest, hs, hj, h⟩
    · exact .inl ⟨h, .inr (by simp [State.waiting, hp, hs])⟩
    · exact .inr (.inr (.inr (.inr (.inr (.inr (.inl ⟨j, b, rest, hj, rfl, hs, h⟩))))))
    · obtain rfl : j = 40 := Fin.ext hj
      exact .inr (.inr (.inr (.inr (.inr (.inr (.inr (.inl ⟨b, rest, rfl, hs, h⟩)))))))
  | check =>
    have ht : s.transition = s.checkStep := by simp [State.transition, hp]
    rw [ht]
    rcases s.checkStep_cases with ⟨hv, h⟩ | ⟨hv, h⟩
    · exact .inr (.inr (.inr (.inr (.inr (.inr (.inr (.inr (.inl ⟨rfl, hv, h⟩))))))))
    · exact .inr (.inr (.inr (.inr (.inr (.inr (.inr (.inr (.inr ⟨rfl, hv, h⟩))))))))

end Sys2Proof.Machine
end

