-- ==== Sys2Proof/Laws/Step.lean ====
section
/-! SUPPORT. What one step can do, by whose turn it is: the lemma every whole-machine claim starts from. -/

namespace Sys2Proof.Machine

theorem State.decoderTurn_busy {s : State} (h : s.phase ≠ .idle) : s.decoderTurn = .next s.transition :=
  if_pos ((State.busy_iff s).2 h)

theorem State.decoderTurn_idle {s : State} (h : s.phase = .idle) : s.decoderTurn = s.acceptPresented :=
  if_neg (by simp [State.busy, h])

theorem State.acceptPresented_none {s : State} (h : s.cmds = []) : s.acceptPresented = .next s := by
  simp [State.acceptPresented, State.presented, h]

theorem State.acceptPresented_ok {s : State} {c : Byte} {rest : List Byte} {i : Instr} (h : s.cmds = c :: rest)
    (hd : decodeWord c = .ok i) : s.acceptPresented = exec i s := by
  simp [State.acceptPresented, State.presented, h, hd]

theorem State.acceptPresented_reserved {s : State} {c : Byte} {rest : List Byte} {r : Reject} (h : s.cmds = c :: rest)
    (hd : decodeWord c = .error r) : s.acceptPresented = .refused (.reservedCommand c) := by
  simp [State.acceptPresented, State.presented, h, hd]

theorem step_decoder {s : State} (h : s.nextTurn = .decoder) : step s = s.popTurn.decoderTurn := by
  simp [step, h, State.takeTurn]

theorem step_arrive {s : State} {bytes : List Byte} (h : s.nextTurn = .arrive bytes) :
    step s = .next (s.popTurn.arrive bytes) := by
  simp [step, h, State.takeTurn]

theorem step_present {s : State} {c : Byte} (h : s.nextTurn = .present c) :
    step s = .next (s.popTurn.present c) := by
  simp [step, h, State.takeTurn]

theorem step_reset {s : State} (h : s.nextTurn = .reset) : step s = .next s.popTurn.resetCore := by
  simp [step, h, State.takeTurn]

/-- An empty agenda leaves every turn to the decoder, and stays empty. -/
theorem State.nextTurn_nil {s : State} (h : s.agenda = []) : s.nextTurn = .decoder := by
  simp [State.nextTurn, h]

theorem State.popTurn_nil {s : State} (h : s.agenda = []) : s.popTurn = s := by
  cases s
  simp_all [State.popTurn]

/-- Everything a step that answers a next state can do: an agent of the environment moves, reset happens, the decoder
takes a transition of the command in progress, an `IDLE` core with no word presented stays as it is, or the presented
word's command is executed. -/
theorem step_cases {s t : State} (h : step s = .next t) :
    (∃ bytes, s.nextTurn = .arrive bytes ∧ t = s.popTurn.arrive bytes) ∨
    (∃ c, s.nextTurn = .present c ∧ t = s.popTurn.present c) ∨
    (s.nextTurn = .reset ∧ t = s.popTurn.resetCore) ∨
    (s.nextTurn = .decoder ∧ s.phase ≠ .idle ∧ t = s.popTurn.transition) ∨
    (s.nextTurn = .decoder ∧ s.phase = .idle ∧ s.cmds = [] ∧ t = s.popTurn) ∨
    (s.nextTurn = .decoder ∧ s.phase = .idle ∧ ∃ c rest i, s.cmds = c :: rest ∧ decodeWord c = .ok i ∧
      exec i s.popTurn = .next t) := by
  cases hn : s.nextTurn with
  | arrive bytes =>
    rw [step_arrive hn] at h
    exact .inl ⟨bytes, rfl, by cases h; rfl⟩
  | present c =>
    rw [step_present hn] at h
    exact .inr (.inl ⟨c, rfl, by cases h; rfl⟩)
  | reset =>
    rw [step_reset hn] at h
    exact .inr (.inr (.inl ⟨rfl, by cases h; rfl⟩))
  | decoder =>
    rw [step_decoder hn] at h
    by_cases hp : s.phase = .idle
    · rw [State.decoderTurn_idle (s := s.popTurn) hp] at h
      cases hc : s.cmds with
      | nil =>
        rw [State.acceptPresented_none (s := s.popTurn) hc] at h
        exact .inr (.inr (.inr (.inr (.inl ⟨rfl, hp, rfl, by cases h; rfl⟩))))
      | cons c rest =>
        cases hd : decodeWord c with
        | ok i =>
          rw [State.acceptPresented_ok (s := s.popTurn) hc hd] at h
          exact .inr (.inr (.inr (.inr (.inr ⟨rfl, hp, c, rest, i, rfl, hd, h⟩))))
        | error r =>
          rw [State.acceptPresented_reserved (s := s.popTurn) hc hd] at h
          cases h
    · rw [State.decoderTurn_busy (s := s.popTurn) hp] at h
      exact .inr (.inr (.inr (.inl ⟨rfl, hp, by cases h; rfl⟩)))

/-- A step that is refused is the acceptance of a reserved word. -/
theorem step_refused {s : State} {r : Refusal} (h : step s = .refused r) :
    s.nextTurn = .decoder ∧ s.phase = .idle ∧ ∃ c rest, s.cmds = c :: rest ∧
      decodeWord c = .error (.reservedCommand c) ∧ r = .reservedCommand c := by
  cases hn : s.nextTurn with
  | arrive bytes => rw [step_arrive hn] at h; cases h
  | present c => rw [step_present hn] at h; cases h
  | reset => rw [step_reset hn] at h; cases h
  | decoder =>
    rw [step_decoder hn] at h
    by_cases hp : s.phase = .idle
    · rw [State.decoderTurn_idle (s := s.popTurn) hp] at h
      cases hc : s.cmds with
      | nil => rw [State.acceptPresented_none (s := s.popTurn) hc] at h; cases h
      | cons c rest =>
        cases hd : decodeWord c with
        | ok i =>
          rw [State.acceptPresented_ok (s := s.popTurn) hc hd] at h
          obtain ⟨t, ht⟩ := exec_next i s.popTurn
          rw [ht] at h
          cases h
        | error r' =>
          rw [State.acceptPresented_reserved (s := s.popTurn) hc hd] at h
          refine ⟨rfl, hp, c, rest, rfl, ?_, by cases h; rfl⟩
          rw [hd, decodeWord_error hd]
    · rw [State.decoderTurn_busy (s := s.popTurn) hp] at h
      cases h

/-! ## Runs -/

theorem run_zero (s : State) : run 0 s = .next s := rfl

theorem run_succ_next {s t : State} (h : step s = .next t) (n : Nat) :
    run (n + 1) s = run n t := by
  have hs : Sys2Proof.core.step s = .next t := h
  simp only [run, Host.Core.run, hs]
  rfl

theorem run_succ_refused {s : State} {r : Refusal} (h : step s = .refused r) (n : Nat) :
    run (n + 1) s = .refused r := by
  have hs : Sys2Proof.core.step s = .refused r := h
  simp only [run, Host.Core.run, hs]
  rfl

/-- A run in two parts. -/
theorem run_add {s t : State} {m : Nat} (h : run m s = .next t) (n : Nat) :
    run (m + n) s = run n t := by
  induction m generalizing s with
  | zero =>
    rw [run_zero] at h
    cases h
    rw [Nat.zero_add]
  | succ m ih =>
    rw [Nat.add_right_comm]
    cases hs : step s with
    | next s' =>
      rw [run_succ_next hs] at h ⊢
      exact ih h
    | fault f => exact nomatch f
    | refused r => rw [run_succ_refused hs] at h; cases h

/-- Induction over a run, packaged: what every step keeps, every good run keeps. -/
theorem run_keeps {P : State → Prop} (hstep : ∀ s t, P s → step s = .next t → P t) {n : Nat} {s t : State}
    (hs : P s) (h : run n s = .next t) : P t := by
  induction n generalizing s with
  | zero => rw [run_zero] at h; cases h; exact hs
  | succ n ih =>
    cases hst : step s with
    | next s' => rw [run_succ_next hst] at h; exact ih (hstep s s' hs hst) h
    | fault f => exact nomatch f
    | refused r => rw [run_succ_refused hst] at h; cases h

end Sys2Proof.Machine
end

