-- ==== Sys2Proof/Tests/Slice0.lean ====
section
/-! SUPPORT. The model's own tests and the witnesses of its statements' hypotheses. Expected results are the spec's:
the encodings of `spec/30_encoding.md` R79, the worked examples of `spec/42_field_access.md` R161 to R169, and the
vectors of `spec/95_test_vectors.md`. -/

set_option maxRecDepth 4000

open Sys2Proof Sys2Proof.Machine Sys2Proof.Claims

namespace Sys2Proof.Tests

/-! ## Encoding -/

theorem test_decode_update : decode [0b00000000#8] = .ok (.update, []) := by decide
theorem test_decode_getYaw : decode [0b00010000#8] = .ok (.getYaw, []) := by decide
theorem test_decode_getPitch : decode [0b00010001#8] = .ok (.getPitch, []) := by decide
theorem test_decode_getRoll : decode [0b00010010#8] = .ok (.getRoll, []) := by decide
theorem test_decode_getRatex : decode [0b00010011#8] = .ok (.getRatex, []) := by decide
theorem test_decode_getRatey : decode [0b00010100#8] = .ok (.getRatey, []) := by decide
theorem test_decode_getRatez : decode [0b00010101#8] = .ok (.getRatez, []) := by decide
theorem test_decode_getAccx : decode [0b00010110#8] = .ok (.getAccx, []) := by decide
theorem test_decode_getAccy : decode [0b00010111#8] = .ok (.getAccy, []) := by decide
theorem test_decode_getAccz : decode [0b00011000#8] = .ok (.getAccz, []) := by decide

/-- R80: one byte is read, the next is left. -/
theorem test_decode_leaves_rest : decode [0x14#8, 0xAA#8] = .ok (.getRatey, [0xAA#8]) := by decide

theorem test_decode_no_word : decode [] = .error .noWord := by decide

/-- L2.6: the reserved words that the spec names are rejected by name. -/
theorem test_decode_reserved :
    ∀ c ∈ [0x01#8, 0x0F#8, 0x19#8, 0x1F#8, 0x20#8, 0xFA#8, 0xFF#8],
      decodeWord c = .error (.reservedCommand c) ∧ reservedWord c = true := by decide

theorem test_decodeTableWord :
    decodeTableWord 8 0x00 = some .update ∧ decodeTableWord 8 0x18 = some .getAccz ∧
    decodeTableWord 8 0x19 = none := by decide

/-! ## Well-formedness: an ill-formed term for each check -/

theorem test_wellFormed_instr : Instr.update.wellFormed = true ∧ Instr.getAccz.wellFormed = true := by decide

theorem test_wellFormed_index_9_refused :
    (AsmCommand.getIndex 9).wellFormed = false ∧ assemble (.getIndex 9) = none := by decide

theorem test_wellFormed_record_lengths :
    recordWellFormed (List.replicate 40 0#8) = false ∧ recordWellFormed (List.replicate 42 0#8) = false ∧
    recordWellFormed (List.replicate 41 0#8) = true := by decide

/-- A buffer with an address past 40, with two entries of one address, and with falling addresses. -/
theorem test_memory_wf_refuses :
    Memory.wf [(41, 0)] = false ∧ Memory.wf [(3, 0), (3, 1)] = false ∧ Memory.wf [(4, 0), (3, 0)] = false ∧
    Memory.wf [(0, 0), (40, 0)] = true := by decide

/-! ## The checksum: L2.1 -/

theorem test_crc16_short :
    crc16 [] = 0x0000#16 ∧ crc16 [0x01#8] = 0x1021#16 ∧ crc16 [0xFA#8] = 0x4E55#16 ∧
    crc16 [0x12#8, 0x34#8] = 0x13C6#16 ∧ crc16 [0xFA#8, 0x00#8] = 0xFC0A#16 := by decide

/-- `00 01 02 ... 26`. -/
theorem test_crc16_ramp : crc16 ((List.range 39).map (BitVec.ofNat 8)) = 0x6C78#16 := by decide

theorem test_crc16_ones : crc16 (List.replicate 39 0xFF#8) = 0xA59C#16 := by decide

/-! ## Small states -/

/-- Record T's fields: 1.0 to 9.0. -/
def fieldsT : DecodedState :=
  ⟨0x3F800000#32, 0x40000000#32, 0x40400000#32, 0x40800000#32, 0x40A00000#32, 0x40C00000#32, 0x40E00000#32,
    0x41000000#32, 0x41100000#32⟩

/-- A state that holds record T's fields. -/
def holding (phase : Phase) (src cmds : List Byte) (agenda : List Turn) : State :=
  { State.reset with phase, src, cmds, agenda, x := fieldsT, rsp := 7#32 }

/-- `IDLE`, with these words presented. -/
def idleWith (cmds : List Byte) : State := holding .idle [] cmds []

/-- A buffer that holds these bytes from cell 0 on. -/
def bufferOf (bytes : List Byte) : Memory := (List.range bytes.length).zip bytes

/-- `CHECK` on these record bytes. -/
def checking (r : List Byte) : State := { holding .check [] [] [] with buf := bufferOf r, sync := true }

/-- The ramp record of L2.5: `00 01 ... 26` and its checksum `6C 78`. -/
def rampRecord : List Byte := (List.range 39).map (BitVec.ofNat 8) ++ [0x6C#8, 0x78#8]

/-- What a step's next state shows. -/
def after {α : Type} (o : Host.Outcome State Fault Refusal) (show_ : State → α) : Option α :=
  match o with
  | .next t => some (show_ t)
  | .fault _ => none
  | .refused _ => none

/-! ## One step of each command, and of each transition -/

/-- R101: UPDATE clears `sync`, goes to `AVAIL` and reads no byte. -/
theorem test_update_accepted :
    after (step { holding .idle [0xFA#8] [0x00#8, 0x10#8] [] with sync := true })
      (fun t => (t.phase, t.sync, t.src, t.cmds)) = some (.avail, false, [0xFA#8], [0x10#8]) := by decide

/-- R75: a command presented while the core is busy is held. -/
theorem test_update_held :
    after (exec .update (holding (.read 4) [] [0x00#8] [])) (fun t => (t.phase, t.cmds)) =
      some (.read 4, [0x00#8]) := by decide

theorem test_getYaw : after (step (idleWith [0x10#8])) State.rsp = some 0x3F800000#32 := by decide
theorem test_getPitch : after (step (idleWith [0x11#8])) State.rsp = some 0x40000000#32 := by decide
theorem test_getRoll : after (step (idleWith [0x12#8])) State.rsp = some 0x40400000#32 := by decide
theorem test_getRatex : after (step (idleWith [0x13#8])) State.rsp = some 0x40800000#32 := by decide
theorem test_getRatey : after (step (idleWith [0x14#8])) State.rsp = some 0x40A00000#32 := by decide
theorem test_getRatez : after (step (idleWith [0x15#8])) State.rsp = some 0x40C00000#32 := by decide
theorem test_getAccx : after (step (idleWith [0x16#8])) State.rsp = some 0x40E00000#32 := by decide
theorem test_getAccy : after (step (idleWith [0x17#8])) State.rsp = some 0x41000000#32 := by decide
theorem test_getAccz : after (step (idleWith [0x18#8])) State.rsp = some 0x41100000#32 := by decide

/-- L1.3: 4 bytes end NO_DATA and the marker is not looked at; 5 bytes start a search. -/
theorem test_threshold :
    after (step (holding .avail [0xFA#8, 1#8, 2#8, 3#8] [] [])) (fun t => (t.phase, t.outcome, t.rsp, t.src.length)) =
      some (.idle, some .noData, 0#32, 4) ∧
    after (step (holding .avail [1#8, 2#8, 3#8, 4#8, 5#8] [] [])) State.phase = some (.sync 0) := by decide

/-- L2.8: the sixth byte ends NO_SYNC, the marker there starts the frame read. -/
theorem test_search_sixth :
    after (step (holding (.sync 5) [0x06#8] [] [])) (fun t => (t.phase, t.outcome, t.src)) =
      some (.idle, some .noSync, []) ∧
    after (step (holding (.sync 5) [0xFA#8] [] [])) (fun t => (t.phase, t.sync, t.buf)) =
      some (.read 0, true, []) := by decide

/-- R104: a marker value inside the record is data; the 41st byte leads to `CHECK`. -/
theorem test_read_last :
    after (step (holding (.read 40) [0xFA#8, 0x01#8] [] [])) (fun t => (t.phase, t.buf, t.src)) =
      some (.check, [(40, 0xFA#8)], [0x01#8]) := by decide

/-- L2.5: the ramp record is committed little-endian. -/
theorem test_check_ramp :
    after (step (checking rampRecord)) State.x =
      some ⟨0x06050403#32, 0x0A090807#32, 0x0E0D0C0B#32, 0x1211100F#32, 0x16151413#32, 0x1A191817#32,
        0x1E1D1C1B#32, 0x2221201F#32, 0x26252423#32⟩ := by decide

/-- L2.4: with the checksum bytes swapped the record is rejected and `x` stays. -/
theorem test_check_swapped :
    after (step (checking (rampRecord.take 39 ++ [0x78#8, 0x6C#8]))) (fun t => (t.x, t.rsp, t.outcome)) =
      some (fieldsT, 0#32, some .badChecksum) := by decide

/-- L2.7: reset in `READ(4)` abandons the UPDATE and leaves the Byte Source. -/
theorem test_reset_in_read :
    after (step { holding (.read 4) [0x55#8] [] [.reset] with sync := true })
      (fun t => (t.phase, t.sync, t.src, t.responses)) = some (.idle, false, [0x55#8], []) := by decide

/-- L2.6: 0x19 is refused. -/
theorem test_reserved_refused : step (idleWith [0x19#8]) = .refused (.reservedCommand 0x19#8) := by rfl

/-- The host's fetch: a table word runs as the first instruction after reset. -/
theorem test_withFetchWord :
    step (State.reset.withFetchWord 8 0x11) = exec .getPitch { State.reset with cmds := [0x11#8] } := by rfl

/-! ## Witnesses: the hypotheses of each statement can be met together, at the boundaries of each clause -/

theorem witness_CommandWordsDecode : decodeWord 0x18#8 = .ok .getAccz := by decide

theorem witness_DecodeEncodeAgree :
    Instr.getAccz.wellFormed = true ∧ decode [0x18#8, 0x00#8] = .ok (.getAccz, [0x00#8]) := by decide

theorem witness_AssemblerWords :
    (AsmCommand.getIndex 0).wellFormed = true ∧ (AsmCommand.getIndex 8).wellFormed = true ∧
    (AsmCommand.getIndex 9).wellFormed = false := by decide

theorem witness_ReservedWordRefused :
    ∀ c ∈ [0x01#8, 0x0F#8, 0x19#8, 0x1F#8, 0x20#8, 0xFF#8],
      (idleWith [c]).phase = .idle ∧ (idleWith [c]).decoderMoves ∧ (idleWith [c]).cmds = [c] ∧
        reservedWord c = true := by decide

theorem witness_StepStopsOnlyOnReservedWords :
    step (idleWith [0x20#8]) = .refused (.reservedCommand 0x20#8) := by rfl

theorem witness_StepRunsPresentedCommand :
    (idleWith [0x00#8]).phase = .idle ∧ (idleWith [0x00#8]).decoderMoves ∧ (idleWith [0x00#8]).cmds = [0x00#8] ∧
    decodeWord 0x00#8 = .ok .update ∧ Instr.update.wellFormed = true := by decide

theorem witness_BusyCoreHoldsCommands :
    (holding (.read 4) [] [0x11#8] []).phase ≠ .idle ∧
    (holding .avail [] [0x11#8] [.present 0x12#8]).phase ≠ .idle := by decide

/-- A reset turn while a word is held: the word stays (Assumption 5). -/
theorem witness_BusyCoreHoldsCommands_reset :
    let s := holding (.read 4) [] [0x11#8] [.reset]
    s.phase ≠ .idle ∧ s.nextTurn = .reset ∧ after (step s) State.cmds = some [0x11#8] := by decide

theorem witness_EndedProgramKeepsEndState : (idleWith []).ended = true ∧ (idleWith []).agenda = [] := by decide

theorem witness_UpdateAccepted : (idleWith [0x00#8]).phase = .idle := by decide

theorem witness_ThresholdTransition :
    let low := holding .avail [1#8, 2#8, 3#8, 4#8] [] []
    let high := holding .avail [1#8, 2#8, 3#8, 4#8, 5#8] [] []
    (low.decoderMoves ∧ low.phase = .avail ∧ low.src.length ≤ 4) ∧
    (high.decoderMoves ∧ high.phase = .avail ∧ 4 < high.src.length) := by decide

theorem witness_SearchTransition :
    (∀ src ∈ [[], [0xFA#8], [0x55#8]],
      (holding (.sync 0) src [] []).decoderMoves ∧ (holding (.sync 5) src [] []).decoderMoves ∧
      (holding (.sync 0) src [] []).phase = .sync 0 ∧ (holding (.sync 5) src [] []).phase = .sync 5) ∧
    0x55#8 ≠ 0xFA#8 ∧ (0 : Fin 6).val + 1 < 6 ∧ (4 : Fin 6).val + 1 < 6 ∧ (5 : Fin 6).val = 5 := by decide

theorem witness_FrameReadTransition :
    (∀ src ∈ [[], [0x55#8]],
      (holding (.read 0) src [] []).decoderMoves ∧ (holding (.read 40) src [] []).decoderMoves ∧
      (holding (.read 0) src [] []).phase = .read 0 ∧ (holding (.read 40) src [] []).phase = .read 40) ∧
    (0 : Fin 41).val + 1 < 41 ∧ (39 : Fin 41).val + 1 < 41 ∧ (40 : Fin 41).val = 40 := by decide

theorem witness_CheckTransition_valid :
    let s := checking rampRecord
    s.decoderMoves ∧ s.phase = .check ∧ crc16 (s.bufBytes 39) = be16 (s.bufByte 39) (s.bufByte 40) := by decide

theorem witness_CheckTransition_invalid :
    let s := checking (rampRecord.take 40 ++ [0x79#8])
    s.decoderMoves ∧ s.phase = .check ∧ crc16 (s.bufBytes 39) ≠ be16 (s.bufByte 39) (s.bufByte 40) := by decide

theorem witness_GetResults : (idleWith [0x18#8]).phase = .idle := by decide

theorem witness_CommandFrame :
    (∃ t, exec .update (idleWith [0x00#8]) = .next t) ∧ (∃ t, exec .getAccz (idleWith [0x18#8]) = .next t) ∧
    (∃ t, exec .getYaw (holding (.read 4) [] [0x10#8] []) = .next t) ∧ Instr.getAccz ≠ .update :=
  ⟨⟨_, rfl⟩, ⟨_, rfl⟩, ⟨_, rfl⟩, by decide⟩

theorem witness_GetsReadOneGroup :
    let s := idleWith [0x10#8, 0x18#8, 0x10#8, 0x00#8]
    s.phase = .idle ∧ s.agenda = [] ∧ s.cmds = [Field.yaw, Field.accZ, Field.yaw].map getWord ++ [0x00#8] := by decide

theorem witness_EnvironmentTurns :
    (holding .avail [] [] [.arrive [1#8]]).nextTurn = .arrive [1#8] ∧
    (holding .avail [] [] [.present 0x10#8]).nextTurn = .present 0x10#8 := by decide

theorem witness_ResetEvent : (holding (.read 4) [] [] [.reset, .decoder]).nextTurn = .reset := by decide

theorem witness_UnfedUpdateHangs :
    ∀ p ∈ [Phase.sync 0, .sync 5, .read 0, .read 40],
      (holding p [] [0x10#8] []).waiting = true ∧ (holding p [] [0x10#8] []).agenda = [] := by decide

theorem witness_ArrivalLiftsWait :
    ∀ p ∈ [Phase.sync 0, .sync 5, .read 0, .read 40],
      let s := holding p [] [] [.arrive [0xFA#8, 1#8], .decoder]
      s.waiting = true ∧ s.agenda = [.arrive [0xFA#8, 1#8], .decoder] := by decide

theorem witness_ZeroRecordDecodes :
    let s := holding .idle (0xFA#8 :: (List.replicate 41 0x00#8 ++ [0x55#8])) [0x00#8, 0x10#8] []
    s.phase = .idle ∧ s.agenda = [] ∧ s.cmds = 0x00#8 :: [0x10#8] ∧
    s.src = 0xFA#8 :: (List.replicate 41 0x00#8 ++ [0x55#8]) := by decide

theorem witness_ChecksumLinear :
    [0x12#8].length = [0x34#8].length ∧ recordWellFormed rampRecord = true ∧ recordValid rampRecord = true ∧
    recordWellFormed (List.replicate 40 0x00#8 ++ [0x01#8]) = true := by decide

/-- One bit and two bits in error, at both ends of the record's 328 bits. -/
theorem witness_OneAndTwoBitErrorsDetected :
    let s := checking rampRecord
    let one := checking (flipBit 0 rampRecord)
    let two := checking (flipBit 327 (flipBit 0 rampRecord))
    (s.phase = .check ∧ s.decoderMoves ∧ after (step s) State.outcome = some (some .decoded)) ∧
    (one.phase = .check ∧ one.decoderMoves ∧ one.bufBytes 41 = flipBit 0 (s.bufBytes 41)) ∧
    (two.phase = .check ∧ two.decoderMoves ∧ two.bufBytes 41 = flipBit 327 (flipBit 0 (s.bufBytes 41))) := by decide

theorem witness_OneAndTwoBitErrorsDetected_marker :
    ∀ k ∈ [0, 7],
      let s := holding (.sync 5) [0xFA#8 ^^^ (1#8 <<< k), 0x01#8] [] []
      s.phase = .sync 5 ∧ s.decoderMoves ∧ k < 8 ∧ s.src = (0xFA#8 ^^^ (1#8 <<< k)) :: [0x01#8] := by decide

theorem witness_UpdateWithoutData :
    ∀ src ∈ [[], [0xFA#8, 1#8, 2#8, 3#8]],
      let s := holding .idle src [0x00#8] []
      s.phase = .idle ∧ s.agenda = [] ∧ s.cmds = [0x00#8] ∧ s.src.length ≤ 4 := by decide

theorem witness_UpdateWithoutMarker :
    let s := holding .idle [1#8, 2#8, 3#8, 4#8, 5#8, 6#8, 0xFA#8] [0x00#8] []
    s.phase = .idle ∧ s.agenda = [] ∧ s.cmds = [0x00#8] ∧
    s.src = [1#8, 2#8, 3#8, 4#8, 5#8, 6#8] ++ [0xFA#8] ∧ [1#8, 2#8, 3#8, 4#8, 5#8, 6#8].length = 6 ∧
    0xFA#8 ∉ [1#8, 2#8, 3#8, 4#8, 5#8, 6#8] := by decide

/-- No byte and five bytes before the marker; a valid record and one that is not. -/
theorem witness_UpdateReadsFrame :
    ∀ noise ∈ [[], [1#8, 2#8, 3#8, 4#8, 5#8]],
      (let s := holding .idle (noise ++ 0xFA#8 :: (rampRecord ++ [0x55#8])) [0x00#8] []
       s.phase = .idle ∧ s.agenda = [] ∧ s.cmds = [0x00#8] ∧
         s.src = noise ++ 0xFA#8 :: (rampRecord ++ [0x55#8])) ∧
      noise.length ≤ 5 ∧ 0xFA#8 ∉ noise ∧ recordWellFormed rampRecord = true ∧ recordValid rampRecord = true ∧
      recordWellFormed (flipBit 0 rampRecord) = true ∧ recordValid (flipBit 0 rampRecord) = false := by decide

theorem witness_FrameRoundTrip :
    ∀ noise ∈ [[], [1#8, 2#8, 3#8, 4#8, 5#8]],
      (let s := holding .idle (noise ++ 0xFA#8 :: (encodeRecord 1#8 8#8 1#8 fieldsT ++ [])) [0x00#8] []
       s.phase = .idle ∧ s.agenda = [] ∧ s.cmds = [0x00#8] ∧
         s.src = noise ++ 0xFA#8 :: (encodeRecord 1#8 8#8 1#8 fieldsT ++ [])) ∧
      noise.length ≤ 5 ∧ 0xFA#8 ∉ noise := by decide

/-- The checksum of record T is `B6 7A` (95_test_vectors.md). -/
theorem test_encodeRecord_T : (encodeRecord 1#8 8#8 1#8 fieldsT).drop 39 = [0xB6#8, 0x7A#8] := by decide

/-- A search whose marker and record arrive in pieces, between turns of the decoder. -/
def arrivingInPieces (r : List Byte) : State :=
  holding (.sync 0) [0x55#8] []
    [.decoder, .arrive (0xFA#8 :: r.take 4), .decoder, .arrive (r.drop 4 ++ [0x77#8])]

/-- The record clause: a valid record and one with a bit in error. -/
theorem witness_UpdateUnderAnyArrivals :
    (∀ r ∈ [rampRecord, flipBit 0 rampRecord],
      let s := arrivingInPieces r
      s.phase = .sync 0 ∧ s.agenda.all decoderOrArrival = true ∧
      s.src ++ arrivalsOf s.agenda = [0x55#8] ++ 0xFA#8 :: (r ++ [0x77#8]) ∧ recordWellFormed r = true) ∧
    [0x55#8].length ≤ 5 ∧ 0xFA#8 ∉ [0x55#8] ∧
    recordValid rampRecord = true ∧ recordValid (flipBit 0 rampRecord) = false := by decide

/-- The NO_SYNC clause: L2.8 with the sixth byte arriving during a wait, and a marker right behind it. -/
theorem witness_UpdateUnderAnyArrivals_noSync :
    let noise := [1#8, 2#8, 3#8, 4#8, 5#8, 6#8]
    let s := holding (.sync 0) [1#8, 2#8, 3#8, 4#8, 5#8] [] [.decoder, .arrive [6#8, 0xFA#8]]
    s.phase = .sync 0 ∧ s.agenda.all decoderOrArrival = true ∧ s.src ++ arrivalsOf s.agenda = noise ++ [0xFA#8] ∧
    noise.length = 6 ∧ 0xFA#8 ∉ noise := by decide

theorem witness_FedUpdateEnds :
    let s := holding .avail (List.replicate 47 0xFA#8) [] []
    s.phase ≠ .idle ∧ s.agenda = [] ∧ 47 ≤ s.src.length := by decide

/-- A state with the frame read under way and two record bytes in the buffer. -/
def readingTwo : State := { holding (.read 2) [0x03#8] [] [] with buf := [(0, 1#8), (1, 2#8)], sync := true }

theorem witness_StepKeepsInvariant : readingTwo.Inv ∧ ∃ t, step readingTwo = .next t := by
  refine ⟨⟨by decide, rfl, ?_⟩, _, rfl⟩
  have small : ∀ a < 2, (readingTwo.buf.lookup a).isSome := by decide
  exact small

theorem witness_DecodedStateChangesOnlyByCommit :
    after (step (checking rampRecord)) (fun t => decide (t.x = fieldsT)) = some false ∧
    after (step (idleWith [0x10#8])) State.x = some fieldsT := by decide

theorem witness_DecodedStateChangesOnlyByCommit_reset :
    ∃ t, step (holding .idle [] [] [.reset]) = .next t ∧ t.x = DecodedState.initial := ⟨_, rfl, rfl⟩

theorem witness_SyncChangesOnlyAtMarkerOrAcceptance :
    after (step { idleWith [0x00#8] with sync := true }) State.sync = some false ∧
    after (step (holding (.sync 0) [0xFA#8] [] [])) State.sync = some true ∧
    after (step { holding (.read 4) [] [] [.reset] with sync := true }) State.sync = some false := by decide

theorem witness_BufferWrittenOnlyByFrameRead :
    readingTwo.nextTurn ≠ .reset ∧ after (step readingTwo) (fun t => (t.bufByte 2, t.bufByte 1)) =
      some (0x03#8, 2#8) := by decide

theorem witness_SourceConsumedInOrder :
    after (step readingTwo) State.src = some [] ∧
    after (step (holding .idle [1#8] [] [.arrive [2#8]])) State.src = some [1#8, 2#8] ∧
    after (step (holding .avail [1#8] [] [])) State.src = some [1#8] := by decide

theorem witness_PhaseAdvancesAsStated :
    after (step (holding (.sync 4) [1#8] [] [])) State.phase = some (.sync 5) ∧
    after (step (holding (.sync 5) [1#8] [] [])) State.phase = some .idle ∧
    after (step (holding (.read 39) [1#8] [] [])) State.phase = some (.read 40) ∧
    after (step (holding (.read 40) [1#8] [] [])) State.phase = some .check ∧
    after (step (holding (.read 40) [1#8] [] [.reset])) State.phase = some .idle := by decide

theorem witness_OneResponsePerCommand :
    (idleWith [0x10#8]).nextTurn ≠ .reset ∧
    after (step (idleWith [0x10#8])) (fun t => (t.responses, t.cmds)) = some ([0x3F800000#32], []) ∧
    after (step (idleWith [0x00#8])) (fun t => (t.responses, t.cmds, inProgress t)) = some ([], [], 1) := by decide

theorem witness_ResponseRegisterHoldsLastResponse :
    (holding .avail [] [] []).nextTurn ≠ .reset ∧
    after (step (holding .avail [] [] [])) (fun t => (t.rsp, t.responses)) = some (0#32, [0#32]) ∧
    after (step (holding (.sync 0) [1#8] [] [])) (fun t => (t.rsp, t.responses)) = some (7#32, []) := by decide

/-- Two `IDLE` machines that differ in `sync`, the buffer and the response register only. -/
theorem witness_HiddenStateNeverObserved :
    let s := idleWith [0x00#8, 0x10#8]
    let s' := { s with sync := true, buf := [(0, 0x55#8)], rsp := 9#32 }
    s.phase = .idle ∧ s'.phase = .idle ∧ s'.x = s.x ∧ s'.src = s.src ∧ s'.cmds = s.cmds ∧ s'.agenda = s.agenda ∧
    after (run 3 s) State.phase = some .idle := by decide

theorem witness_HiddenStateNeverObserved_refused :
    run 1 (idleWith [0xFF#8]) = .refused (.reservedCommand 0xFF#8) := by rfl

/-- In `CHECK` on one record, with everything hidden different. -/
theorem witness_StepKeepsLooksAlike :
    let s := checking rampRecord
    let s' := { s with sync := false, rsp := 9#32, resets := 3, outcome := some .noData }
    looksAlike s s' ∧ ∃ t, step s = .next t := by
  refine ⟨⟨rfl, rfl, rfl, rfl, rfl, ?_⟩, _, rfl⟩
  show ∀ a < 41, _
  decide

/-- In `READ(2)` the cells from 2 on may differ. -/
theorem witness_StepKeepsLooksAlike_read :
    looksAlike readingTwo { readingTwo with buf := [(0, 1#8), (1, 2#8), (2, 0x77#8), (40, 0x78#8)] } := by
  refine ⟨rfl, rfl, rfl, rfl, rfl, ?_⟩
  show ∀ a < 2, _
  decide

theorem witness_StepKeepsLooksAlike_refused :
    looksAlike (idleWith [0x19#8]) { idleWith [0x19#8] with buf := [(0, 0x55#8)] } ∧
    step (idleWith [0x19#8]) = .refused (.reservedCommand 0x19#8) :=
  ⟨⟨rfl, rfl, rfl, rfl, rfl, fun _ h => absurd h (Nat.not_lt_zero _)⟩, rfl⟩

theorem witness_ArrivalCommutesWithDecoderStep :
    (holding (.sync 0) [1#8] [] []).phase ≠ .avail ∧ (holding (.sync 0) [1#8] [] []).waiting = false ∧
    (idleWith [0x00#8]).phase ≠ .avail ∧ (idleWith [0x00#8]).waiting = false := by decide

end Sys2Proof.Tests
end

section
/-!
PROOF. The byte order of a field and of the stored checksum as numbers (R8, R57, R58). A byte shifted past
the bits already in use shares no bit with them, so each `|||` of `le32` and `be16` is an addition without a carry. -/

namespace Sys2Proof.Machine

/-- The one step shared by both byte orders: `hx` says that bit `k` and up are free, `hk` that the byte is not cut off. -/
theorem toNat_or_byte_shiftLeft {w k : Nat} (x : BitVec w) (b : Byte) (hx : x.toNat < 2 ^ k) (hk : k + 8 ≤ w) :
    (x ||| b.zeroExtend w <<< k).toNat = x.toNat + 2 ^ k * b.toNat := by
  have hb : 2 ^ k * b.toNat < 2 ^ w := calc
    2 ^ k * b.toNat < 2 ^ k * 2 ^ 8 := Nat.mul_lt_mul_of_pos_left b.isLt (Nat.two_pow_pos k)
    _ = 2 ^ (k + 8) := (Nat.pow_add 2 k 8).symm
    _ ≤ 2 ^ w := Nat.pow_le_pow_right Nat.two_pos hk
  have hbyte : (b.zeroExtend w).toNat = b.toNat := BitVec.toNat_setWidth_of_le (by omega)
  have hshift : (b.zeroExtend w <<< k).toNat = 2 ^ k * b.toNat := by
    rw [BitVec.toNat_shiftLeft, hbyte, Nat.shiftLeft_eq, Nat.mul_comm, Nat.mod_eq_of_lt hb]
  rw [BitVec.toNat_or, hshift, Nat.or_comm, ← Nat.two_pow_add_eq_or_of_lt hx, Nat.add_comm]

/-- R8, R57: the first byte of a field weighs least. -/
theorem le32_toNat (b0 b1 b2 b3 : Byte) :
    (le32 b0 b1 b2 b3).toNat =
      b0.toNat + 0x100 * b1.toNat + 0x10000 * b2.toNat + 0x1000000 * b3.toNat := by
  have h0 : (b0.zeroExtend 32).toNat = b0.toNat := BitVec.toNat_setWidth_of_le (by decide)
  have h1 := toNat_or_byte_shiftLeft (k := 8) (b0.zeroExtend 32) b1 (by omega) (by decide)
  have h2 := toNat_or_byte_shiftLeft (k := 16) _ b2 (h1.trans_lt (by omega)) (by decide)
  have h3 := toNat_or_byte_shiftLeft (k := 24) _ b3 (h2.trans_lt (by omega)) (by decide)
  rw [le32, h3, h2, h1, h0]
  norm_num

/-- R8, R58: the first byte of the stored checksum weighs most. -/
theorem be16_toNat (h l : Byte) : (be16 h l).toNat = 0x100 * h.toNat + l.toNat := by
  have hl : (l.zeroExtend 16).toNat = l.toNat := BitVec.toNat_setWidth_of_le (by decide)
  have hor := toNat_or_byte_shiftLeft (k := 8) (l.zeroExtend 16) h (by omega) (by decide)
  rw [be16, BitVec.or_comm, hor, hl, Nat.add_comm]
  norm_num

/-- Settles O14: each `OR` of a byte above the bytes already placed is an addition at that byte's weight. -/
theorem byteOrderOfFieldsAndChecksum : Obligations.ByteOrderOfFieldsAndChecksum :=
  ⟨le32_toNat, be16_toNat⟩

end Sys2Proof.Machine
end

section
/-! PROOF. What one step can do, as one named case per rule: `StepShape s t` lists the sixteen ways from `s` to `t` with
the guard of each, and `step_next_iff` says that a step answers `t` exactly when one of them holds. The claims about
every step are then a case analysis on it, and a claim about two machines takes the same case in both. -/

namespace Sys2Proof.Machine

/-! ## What stands behind two of the guards -/

/-- R79: UPDATE has one word. -/
theorem decodeWord_eq_update_iff (c : Byte) : decodeWord c = .ok .update ↔ c = 0x00#8 := by
  constructor
  · intro h
    unfold decodeWord at h
    split_ifs at h with hzero hget
    · obtain ⟨hop, hindex⟩ := hzero
      have hhigh := congrArg BitVec.toNat hop
      have hlow := congrArg BitVec.toNat hindex
      simp only [commandOp, commandIndex, BitVec.extractLsb'_toNat, Nat.shiftRight_eq_div_pow] at hhigh hlow
      bv_omega
    · have hnone : ∀ n, getOfIndex n ≠ some .update := by
        intro n
        unfold getOfIndex
        split <;> simp
      split at h
      · next i hi => cases h; exact absurd hi (hnone _)
      · cases h
  · rintro rfl
    rfl

/-- R204 (a): the decoder waits exactly in a search or a frame read without a byte. -/
theorem State.waiting_iff (s : State) :
    s.waiting = true ↔ s.src = [] ∧ ((∃ i, s.phase = .sync i) ∨ ∃ j, s.phase = .read j) := by
  cases hp : s.phase <;> cases hs : s.src <;> simp [State.waiting, hp, hs]

/-- A wait leaves the state as it is (Assumption 10). -/
theorem State.transition_of_waiting {s : State} (h : s.waiting = true) : s.transition = s := by
  obtain ⟨hsrc, ⟨i, hp⟩ | ⟨j, hp⟩⟩ := s.waiting_iff.1 h
  · simp [State.transition, hp, State.searchStep, State.srcRead_nil hsrc]
  · simp [State.transition, hp, State.recordStep, State.srcRead_nil hsrc]

/-! ## The shapes of a step -/

/-- Every way in which a step leads from `s` to another state, with its guard. -/
inductive StepShape (s : State) : State → Prop
  /-- The Byte Source appends (R52). -/
  | arrive (bytes : List Byte) (turn : s.nextTurn = .arrive bytes) : StepShape s (s.popTurn.arrive bytes)
  /-- The caller adds a command word (R75). -/
  | present (c : Byte) (turn : s.nextTurn = .present c) : StepShape s (s.popTurn.present c)
  /-- The reset event (R230). -/
  | reset (turn : s.nextTurn = .reset) : StepShape s s.popTurn.resetCore
  /-- `IDLE` without a command (R214). -/
  | unasked (turn : s.decoderMoves) (phase : s.phase = .idle) (cmds : s.cmds = []) : StepShape s s.popTurn
  /-- UPDATE is accepted (R101). -/
  | update (rest : List Byte) (turn : s.decoderMoves) (phase : s.phase = .idle) (cmds : s.cmds = 0x00#8 :: rest) :
      StepShape s (State.goto (State.clearSync { s.popTurn with cmds := rest }) .avail)
  /-- A GET is answered (R160). -/
  | get (c : Byte) (rest : List Byte) (i : Instr) (f : Field) (turn : s.decoderMoves) (phase : s.phase = .idle)
      (cmds : s.cmds = c :: rest) (word : decodeWord c = .ok i) (field : getField i = some f) :
      StepShape s (State.respond { s.popTurn with cmds := rest } (readField s.x f))
  /-- The decoder waits for a byte (R204). -/
  | wait (turn : s.decoderMoves) (waiting : s.waiting = true) : StepShape s s.popTurn
  /-- The threshold is met (R102). -/
  | startSearch (turn : s.decoderMoves) (phase : s.phase = .avail) (enough : 4 < s.src.length) :
      StepShape s (s.popTurn.goto (.sync 0))
  /-- The threshold is not met (R102). -/
  | noData (turn : s.decoderMoves) (phase : s.phase = .avail) (few : s.src.length ≤ 4) :
      StepShape s (s.popTurn.finishUpdate .noData updateFalse)
  /-- The search reads the marker (R103). -/
  | marker (i : Fin 6) (rest : List Byte) (turn : s.decoderMoves) (phase : s.phase = .sync i)
      (src : s.src = 0xFA#8 :: rest) :
      StepShape s (State.goto (State.setSync { s.popTurn with src := rest }) (.read 0))
  /-- The search reads another byte before the sixth (R103). -/
  | skip (i : Fin 6) (b : Byte) (rest : List Byte) (h : i.val + 1 < 6) (turn : s.decoderMoves)
      (phase : s.phase = .sync i) (src : s.src = b :: rest) (noMarker : b ≠ 0xFA#8) :
      StepShape s (State.goto { s.popTurn with src := rest } (.sync ⟨i.val + 1, h⟩))
  /-- The sixth byte of the search is no marker either (R103). -/
  | noSync (b : Byte) (rest : List Byte) (turn : s.decoderMoves) (phase : s.phase = .sync 5)
      (src : s.src = b :: rest) (noMarker : b ≠ 0xFA#8) :
      StepShape s (State.finishUpdate { s.popTurn with src := rest } .noSync updateFalse)
  /-- The frame read stores a byte before the last (R104). -/
  | record (j : Fin 41) (b : Byte) (rest : List Byte) (h : j.val + 1 < 41) (turn : s.decoderMoves)
      (phase : s.phase = .read j) (src : s.src = b :: rest) :
      StepShape s (State.goto (State.writeBuf { s.popTurn with src := rest } j b) (.read ⟨j.val + 1, h⟩))
  /-- The frame read stores the last byte (R104). -/
  | lastRecord (b : Byte) (rest : List Byte) (turn : s.decoderMoves) (phase : s.phase = .read 40)
      (src : s.src = b :: rest) :
      StepShape s (State.goto (State.writeBuf { s.popTurn with src := rest } 40 b) .check)
  /-- The record is valid and committed (R105 to R108). -/
  | commit (turn : s.decoderMoves) (phase : s.phase = .check) (valid : s.bufValid = true) :
      StepShape s (State.finishUpdate { s.popTurn with x := s.bufFields } .decoded updateTrue)
  /-- The record's checksum is wrong (R105). -/
  | badChecksum (turn : s.decoderMoves) (phase : s.phase = .check) (invalid : s.bufValid = false) :
      StepShape s (s.popTurn.finishUpdate .badChecksum updateFalse)

/-- The decoder's transition on a busy core has one of the shapes. -/
theorem stepShape_transition {s : State} (turn : s.decoderMoves) (hbusy : s.phase ≠ .idle) :
    StepShape s s.popTurn.transition := by
  rcases s.popTurn.transition_cases with ⟨h, hidle | hwait⟩ | ⟨hp, hlen, h⟩ | ⟨hp, hlen, h⟩ | ⟨i, rest, hp, hs, h⟩ |
    ⟨i, b, rest, hi, hp, hs, hb, h⟩ | ⟨b, rest, hp, hs, hb, h⟩ | ⟨j, b, rest, hj, hp, hs, h⟩ | ⟨b, rest, hp, hs, h⟩ |
    ⟨hp, hv, h⟩ | ⟨hp, hv, h⟩ <;> rw [h]
  · exact absurd hidle hbusy
  · exact .wait turn hwait
  · exact .startSearch turn hp hlen
  · exact .noData turn hp hlen
  · exact .marker i rest turn hp hs
  · exact .skip i b rest hi turn hp hs hb
  · exact .noSync b rest turn hp hs hb
  · exact .record j b rest hj turn hp hs
  · exact .lastRecord b rest turn hp hs
  · exact .commit turn hp hv
  · exact .badChecksum turn hp hv

/-- Every step that answers a next state has one of the shapes. -/
theorem stepShape_of_step {s t : State} (h : step s = .next t) : StepShape s t := by
  rcases step_cases h with ⟨bytes, turn, rfl⟩ | ⟨c, turn, rfl⟩ | ⟨turn, rfl⟩ | ⟨turn, hbusy, rfl⟩ |
    ⟨turn, hp, hc, rfl⟩ | ⟨turn, hp, c, rest, i, hc, hword, hexec⟩
  · exact .arrive bytes turn
  · exact .present c turn
  · exact .reset turn
  · exact stepShape_transition turn hbusy
  · exact .unasked turn hp hc
  · have htail : s.cmds.tail = rest := by simp [hc]
    rcases exec_cases hexec with ⟨hbusy, -⟩ | ⟨-, rfl, rfl⟩ | ⟨-, f, hf, rfl⟩
    · exact absurd hp hbusy
    · rw [decodeWord_eq_update_iff] at hword
      subst hword
      subst htail
      exact .update _ turn hp hc
    · subst htail
      exact .get c _ i f turn hp hc hword hf

/-- A busy core steps by the decoder's transition. -/
theorem step_of_transition {s t : State} (turn : s.decoderMoves) (hbusy : s.phase ≠ .idle)
    (h : s.popTurn.transition = t) : step s = .next t := by
  rw [step_decoder turn, State.decoderTurn_busy (s := s.popTurn) hbusy, h]

/-- An `IDLE` core steps by the presented word's command (R75, R77). -/
theorem step_of_word {s : State} {c : Byte} {rest : List Byte} {i : Instr} (turn : s.decoderMoves)
    (hp : s.phase = .idle) (hc : s.cmds = c :: rest) (hword : decodeWord c = .ok i) :
    step s = exec i s.popTurn := by
  rw [step_decoder turn, State.decoderTurn_idle (s := s.popTurn) hp,
    State.acceptPresented_ok (s := s.popTurn) hc hword]

/-- A step answers exactly the states that a shape leads to. -/
theorem step_next_iff {s t : State} : step s = .next t ↔ StepShape s t := by
  refine ⟨stepShape_of_step, fun h => ?_⟩
  cases h with
  | arrive bytes turn => exact step_arrive turn
  | present c turn => exact step_present turn
  | reset turn => exact step_reset turn
  | unasked turn phase cmds =>
    rw [step_decoder turn, State.decoderTurn_idle (s := s.popTurn) phase,
      State.acceptPresented_none (s := s.popTurn) cmds]
  | update rest turn phase cmds =>
    rw [step_of_word turn phase cmds ((decodeWord_eq_update_iff _).2 rfl), exec_eq]
    simp [getField, State.accept_idle (s := s.popTurn) phase, cmds]
  | get c rest i f turn phase cmds word field =>
    rw [step_of_word turn phase cmds word, exec_eq]
    simp [field, State.accept_idle (s := s.popTurn) phase, cmds]
  | wait turn waiting =>
    refine step_of_transition turn ?_ (State.transition_of_waiting waiting)
    obtain ⟨-, ⟨i, hp⟩ | ⟨j, hp⟩⟩ := s.waiting_iff.1 waiting <;> simp [hp]
  | startSearch turn phase enough =>
    exact step_of_transition turn (by simp [phase]) (by
      simp [State.transition, phase, State.thresholdStep, State.srcAvail, enough])
  | noData turn phase few =>
    exact step_of_transition turn (by simp [phase]) (by
      simp [State.transition, phase, State.thresholdStep, State.srcAvail, few])
  | marker i rest turn phase src =>
    exact step_of_transition turn (by simp [phase]) (by
      simp [State.transition, phase, State.searchStep, State.srcRead, src, State.searchByte, isMarker])
  | skip i b rest h turn phase src noMarker =>
    exact step_of_transition turn (by simp [phase]) (by
      simp [State.transition, phase, State.searchStep, State.srcRead, src, State.searchByte, isMarker, noMarker, h])
  | noSync b rest turn phase src noMarker =>
    exact step_of_transition turn (by simp [phase]) (by
      simp [State.transition, phase, State.searchStep, State.srcRead, src, State.searchByte, isMarker, noMarker])
  | record j b rest h turn phase src =>
    exact step_of_transition turn (by simp [phase]) (by
      simp [State.transition, phase, State.recordStep, State.srcRead, src, State.recordByte, h])
  | lastRecord b rest turn phase src =>
    exact step_of_transition turn (by simp [phase]) (by
      simp [State.transition, phase, State.recordStep, State.srcRead, src, State.recordByte])
  | commit turn phase valid =>
    exact step_of_transition turn (by simp [phase]) (by
      simp [State.transition, phase, State.checkStep, valid])
  | badChecksum turn phase invalid =>
    exact step_of_transition turn (by simp [phase]) (by
      simp [State.transition, phase, State.checkStep, invalid])

/-- R201, R203: on a busy core no step stops. -/
theorem step_next_of_busy {s : State} (hbusy : s.phase ≠ .idle) : ∃ t, step s = .next t := by
  cases h : step s with
  | next t => exact ⟨t, rfl⟩
  | fault f => exact nomatch f
  | refused r =>
    obtain ⟨-, hp, -⟩ := step_refused h
    exact absurd hp hbusy

end Sys2Proof.Machine
end

section
/-! PROOF. The machine's invariant holds after reset and every step keeps it (R21, R24, R28, R50). -/

namespace Sys2Proof.Machine

/-! ## What the invariant says in each phase -/

theorem State.phaseSound_idle {s : State} (h : s.phase = .idle) : s.phaseSound ↔ s.sync = foundMarker s.outcome := by
  simp [State.phaseSound, h]

theorem State.phaseSound_avail {s : State} (h : s.phase = .avail) : s.phaseSound ↔ s.sync = false := by
  simp [State.phaseSound, h]

theorem State.phaseSound_sync {s : State} {i : Fin 6} (h : s.phase = .sync i) : s.phaseSound ↔ s.sync = false := by
  simp [State.phaseSound, h]

theorem State.phaseSound_read {s : State} {j : Fin 41} (h : s.phase = .read j) :
    s.phaseSound ↔ s.sync = true ∧ s.filledTo j.val := by
  simp [State.phaseSound, h]

theorem State.phaseSound_check {s : State} (h : s.phase = .check) : s.phaseSound ↔ s.sync = true ∧ s.filledTo 41 := by
  simp [State.phaseSound, h]

/-! ## The buffer fills from below -/

theorem State.filledTo_zero (s : State) : s.filledTo 0 := fun a h => absurd h (Nat.not_lt_zero a)

/-- A write to the first cell that is not yet filled fills one cell more. -/
theorem State.filledTo_succ_of_write {s t : State} {n : Nat} {b : Byte} (h : s.filledTo n)
    (hbuf : t.buf = s.buf.write n b) : t.filledTo (n + 1) := by
  intro a ha
  rw [hbuf, Memory.lookup_write]
  split_ifs with heq
  · rfl
  · exact h a (by omega)

/-! ## Reset and the steps -/

/-- Settles O20: field by field. -/
theorem resetState : Obligations.ResetState :=
  ⟨rfl, rfl, fun f => by cases f <;> rfl⟩

/-- Settles O34: no cell is written, and no marker has been found. -/
theorem invariantAtReset : Obligations.InvariantAtReset :=
  ⟨Memory.wf_nil, (State.phaseSound_idle rfl).2 rfl⟩

/-- Settles O35: a buffer write is a frame read's own, inside 0..40 and at the first unfilled cell; `sync` and the
outcome are written together with the phase that speaks of them. -/
theorem stepKeepsInvariant : Obligations.StepKeepsInvariant := by
  rintro s t ⟨hwf, hsound⟩ hstep
  cases stepShape_of_step hstep with
  | arrive | present | unasked | wait => exact ⟨hwf, hsound⟩
  | reset => exact ⟨Memory.wf_nil, (State.phaseSound_idle rfl).2 rfl⟩
  | update => exact ⟨hwf, (State.phaseSound_avail rfl).2 rfl⟩
  | get c rest i f turn phase =>
    exact ⟨hwf, (State.phaseSound_idle rfl).2 ((State.phaseSound_idle phase).1 hsound)⟩
  | startSearch turn phase =>
    exact ⟨hwf, (State.phaseSound_sync rfl).2 ((State.phaseSound_avail phase).1 hsound)⟩
  | noData turn phase =>
    exact ⟨hwf, (State.phaseSound_idle rfl).2 ((State.phaseSound_avail phase).1 hsound)⟩
  | marker => exact ⟨hwf, (State.phaseSound_read rfl).2 ⟨rfl, State.filledTo_zero _⟩⟩
  | skip i b rest h turn phase =>
    exact ⟨hwf, (State.phaseSound_sync rfl).2 ((State.phaseSound_sync phase).1 hsound)⟩
  | noSync b rest turn phase =>
    exact ⟨hwf, (State.phaseSound_idle rfl).2 ((State.phaseSound_sync phase).1 hsound)⟩
  | record j b rest h turn phase =>
    obtain ⟨hsync, hfilled⟩ := (State.phaseSound_read phase).1 hsound
    exact ⟨Memory.wf_write s.buf j b hwf,
      (State.phaseSound_read rfl).2 ⟨hsync, State.filledTo_succ_of_write hfilled rfl⟩⟩
  | lastRecord b rest turn phase =>
    obtain ⟨hsync, hfilled⟩ := (State.phaseSound_read phase).1 hsound
    exact ⟨Memory.wf_write s.buf 40 b hwf,
      (State.phaseSound_check rfl).2 ⟨hsync, State.filledTo_succ_of_write hfilled rfl⟩⟩
  | commit turn phase | badChecksum turn phase =>
    obtain ⟨hsync, -⟩ := (State.phaseSound_check phase).1 hsound
    exact ⟨hwf, (State.phaseSound_idle rfl).2 hsync⟩

end Sys2Proof.Machine
end

section
/-! PROOF. Two machines that differ in hidden state only (R24, R28, R29, R34): a step takes the same shape in both,
since every guard reads only what they agree on, and so does a run. -/

namespace Sys2Proof.Machine

open Sys2Proof.Claims

/-! ## What `CHECK` reads -/

/-- `valid` and the nine fields are read from the 41 record cells only (R105, R106). -/
theorem State.bufValid_congr {s t : State} (h : ∀ a, a < 41 → t.bufByte a = s.bufByte a) :
    t.bufValid = s.bufValid := by
  have hbody : t.bufBytes 39 = s.bufBytes 39 := s.bufBytes_congr fun a ha => h a (by omega)
  simp [State.bufValid, State.computedChecksum, State.storedChecksum, hbody, h]

theorem State.bufFields_congr {s t : State} (h : ∀ a, a < 41 → t.bufByte a = s.bufByte a) :
    t.bufFields = s.bufFields := by
  have hfield : t.bufField = s.bufField := by
    funext f
    cases f <;> simp [State.bufField, State.bufWord, fieldOffset, fieldIndex, h]
  simp [State.bufFields, hfield]

/-! ## The relation -/

/-- Where no buffer cell is in use, the buffer plays no part. -/
theorem looksAlike_of_no_cells {s s' : State} (hphase : s'.phase = s.phase) (hx : s'.x = s.x) (hsrc : s'.src = s.src)
    (hcmds : s'.cmds = s.cmds) (hagenda : s'.agenda = s.agenda) (hcells : cellsInUse s.phase = 0) : looksAlike s s' :=
  ⟨hphase, hx, hsrc, hcmds, hagenda, fun a ha => by omega⟩

/-- A frame read stores the same byte in both machines, so one cell more agrees (R104). -/
theorem bufByte_writeBuf_agree {s s' : State} {j : Fin 41} {b : Byte}
    (h : ∀ a, a < j.val → s'.bufByte a = s.bufByte a) :
    ∀ a, a < j.val + 1 → (s'.writeBuf j b).bufByte a = (s.writeBuf j b).bufByte a := by
  intro a ha
  rw [State.writeBuf_bufByte, State.writeBuf_bufByte]
  split_ifs with heq
  · rfl
  · exact h a (by omega)

/-- The other machine's step has the same shape. -/
theorem stepShape_of_looksAlike {s s' t : State} (h : looksAlike s s') (hstep : StepShape s t) :
    ∃ t' given, StepShape s' t' ∧ looksAlike t t' ∧
      t.responses = s.responses ++ given ∧ t'.responses = s'.responses ++ given := by
  obtain ⟨hphase, hx, hsrc, hcmds, hagenda, hbuf⟩ := h
  have hturn : s'.nextTurn = s.nextTurn := by simp [State.nextTurn, hagenda]
  have htail : s'.popTurn.agenda = s.popTurn.agenda := by simp [hagenda]
  cases hstep with
  | arrive bytes turn =>
    exact ⟨_, [], .arrive bytes (hturn.trans turn), ⟨hphase, hx, by simp [hsrc], hcmds, htail, hbuf⟩, by simp, by simp⟩
  | present c turn =>
    exact ⟨_, [], .present c (hturn.trans turn), ⟨hphase, hx, hsrc, by simp [hcmds], htail, hbuf⟩, by simp, by simp⟩
  | reset turn =>
    exact ⟨_, [], .reset (hturn.trans turn), looksAlike_of_no_cells rfl rfl hsrc hcmds htail rfl, by simp, by simp⟩
  | unasked turn phase cmds =>
    exact ⟨_, [], .unasked (hturn.trans turn) (hphase.trans phase) (hcmds.trans cmds),
      ⟨hphase, hx, hsrc, hcmds, htail, hbuf⟩, by simp, by simp⟩
  | update rest turn phase cmds =>
    exact ⟨_, [], .update rest (hturn.trans turn) (hphase.trans phase) (hcmds.trans cmds),
      looksAlike_of_no_cells rfl hx hsrc rfl htail rfl, by simp, by simp⟩
  | get c rest i f turn phase cmds word field =>
    exact ⟨_, [readField s.x f],
      .get c rest i f (hturn.trans turn) (hphase.trans phase) (hcmds.trans cmds) word field,
      looksAlike_of_no_cells rfl hx hsrc rfl htail rfl, by simp, by simp [hx]⟩
  | wait turn waiting =>
    exact ⟨_, [], .wait (hturn.trans turn) (by rw [State.waiting_iff] at waiting ⊢; rwa [hphase, hsrc]),
      ⟨hphase, hx, hsrc, hcmds, htail, hbuf⟩, by simp, by simp⟩
  | startSearch turn phase enough =>
    exact ⟨_, [], .startSearch (hturn.trans turn) (hphase.trans phase) (hsrc ▸ enough),
      looksAlike_of_no_cells rfl hx hsrc hcmds htail rfl, by simp, by simp⟩
  | noData turn phase few =>
    exact ⟨_, [updateFalse], .noData (hturn.trans turn) (hphase.trans phase) (hsrc ▸ few),
      looksAlike_of_no_cells rfl hx hsrc hcmds htail rfl, rfl, rfl⟩
  | marker i rest turn phase src =>
    exact ⟨_, [], .marker i rest (hturn.trans turn) (hphase.trans phase) (hsrc.trans src),
      looksAlike_of_no_cells rfl hx rfl hcmds htail rfl, by simp, by simp⟩
  | skip i b rest h turn phase src noMarker =>
    exact ⟨_, [], .skip i b rest h (hturn.trans turn) (hphase.trans phase) (hsrc.trans src) noMarker,
      looksAlike_of_no_cells rfl hx rfl hcmds htail rfl, by simp, by simp⟩
  | noSync b rest turn phase src noMarker =>
    exact ⟨_, [updateFalse], .noSync b rest (hturn.trans turn) (hphase.trans phase) (hsrc.trans src) noMarker,
      looksAlike_of_no_cells rfl hx rfl hcmds htail rfl, rfl, rfl⟩
  | record j b rest h turn phase src =>
    have hcells : ∀ a, a < j.val → s'.bufByte a = s.bufByte a := by rwa [phase] at hbuf
    exact ⟨_, [], .record j b rest h (hturn.trans turn) (hphase.trans phase) (hsrc.trans src),
      ⟨rfl, hx, rfl, hcmds, htail, bufByte_writeBuf_agree hcells⟩, by simp, by simp⟩
  | lastRecord b rest turn phase src =>
    have hcells : ∀ a, a < 40 → s'.bufByte a = s.bufByte a := by rwa [phase] at hbuf
    exact ⟨_, [], .lastRecord b rest (hturn.trans turn) (hphase.trans phase) (hsrc.trans src),
      ⟨rfl, hx, rfl, hcmds, htail, bufByte_writeBuf_agree (j := 40) hcells⟩, by simp, by simp⟩
  | commit turn phase valid =>
    have hcells : ∀ a, a < 41 → s'.bufByte a = s.bufByte a := by rwa [phase] at hbuf
    exact ⟨_, [updateTrue],
      .commit (hturn.trans turn) (hphase.trans phase) ((State.bufValid_congr hcells).trans valid),
      looksAlike_of_no_cells rfl (State.bufFields_congr hcells) hsrc hcmds htail rfl, rfl, rfl⟩
  | badChecksum turn phase invalid =>
    have hcells : ∀ a, a < 41 → s'.bufByte a = s.bufByte a := by rwa [phase] at hbuf
    exact ⟨_, [updateFalse],
      .badChecksum (hturn.trans turn) (hphase.trans phase) ((State.bufValid_congr hcells).trans invalid),
      looksAlike_of_no_cells rfl hx hsrc hcmds htail rfl, rfl, rfl⟩

theorem step_refused_of_looksAlike {s s' : State} {r : Refusal} (h : looksAlike s s') (hstep : step s = .refused r) :
    step s' = .refused r := by
  obtain ⟨hphase, -, -, hcmds, hagenda, -⟩ := h
  obtain ⟨turn, phase, c, rest, cmds, word, rfl⟩ := step_refused hstep
  have hturn : s'.nextTurn = .decoder := by rw [← turn]; simp [State.nextTurn, hagenda]
  rw [step_decoder hturn, State.decoderTurn_idle (s := s'.popTurn) (hphase.trans phase),
    State.acceptPresented_reserved (s := s'.popTurn) (hcmds.trans cmds) word]

/-- Settles O45: every guard of a step reads only what the two machines agree on. -/
theorem stepKeepsLooksAlike : Obligations.StepKeepsLooksAlike := by
  refine fun s s' h => ⟨fun t hstep => ?_, fun r hstep => step_refused_of_looksAlike h hstep⟩
  obtain ⟨t', given, hstep', hrest⟩ := stepShape_of_looksAlike h (stepShape_of_step hstep)
  exact ⟨t', given, step_next_iff.2 hstep', hrest⟩

/-! ## Runs -/

/-- Two machines that look alike run alike, from any phase. -/
theorem run_next_of_looksAlike (n : Nat) {s s' t : State} (h : looksAlike s s') (hrun : run n s = .next t) :
    ∃ t' given, run n s' = .next t' ∧ looksAlike t t' ∧
      t.responses = s.responses ++ given ∧ t'.responses = s'.responses ++ given := by
  induction n generalizing s s' with
  | zero =>
    rw [run_zero] at hrun
    cases hrun
    exact ⟨s', [], run_zero s', h, by simp, by simp⟩
  | succ n ih =>
    cases hstep : step s with
    | next u =>
      obtain ⟨hnext, -⟩ := stepKeepsLooksAlike s s' h
      obtain ⟨u', first, hstep', halike, hfirst, hfirst'⟩ := hnext u hstep
      rw [run_succ_next hstep] at hrun
      obtain ⟨t', later, hrun', halike', hlater, hlater'⟩ := ih halike hrun
      exact ⟨t', first ++ later, by rw [run_succ_next hstep', hrun'], halike',
        by rw [hlater, hfirst, List.append_assoc], by rw [hlater', hfirst', List.append_assoc]⟩
    | fault f => exact nomatch f
    | refused r => rw [run_succ_refused hstep] at hrun; cases hrun

theorem run_refused_of_looksAlike (n : Nat) {s s' : State} {r : Refusal} (h : looksAlike s s')
    (hrun : run n s = .refused r) : run n s' = .refused r := by
  induction n generalizing s s' with
  | zero => rw [run_zero] at hrun; cases hrun
  | succ n ih =>
    obtain ⟨hnext, hrefused⟩ := stepKeepsLooksAlike s s' h
    cases hstep : step s with
    | next u =>
      obtain ⟨u', -, hstep', halike, -⟩ := hnext u hstep
      rw [run_succ_next hstep] at hrun
      rw [run_succ_next hstep']
      exact ih halike hrun
    | fault f => exact nomatch f
    | refused r' =>
      rw [run_succ_refused hstep] at hrun
      rw [run_succ_refused (hrefused r' hstep), hrun]

/-- Settles O43: `IDLE` machines that agree on the observed state look alike, and so they run alike. -/
theorem hiddenStateNeverObserved : Obligations.HiddenStateNeverObserved := by
  intro n s s' hp hp' hx hsrc hcmds hagenda
  have halike : looksAlike s s' := looksAlike_of_no_cells (hp'.trans hp.symm) hx hsrc hcmds hagenda (by rw [hp]; rfl)
  refine ⟨fun t hrun => ?_, fun r hrun => run_refused_of_looksAlike n halike hrun⟩
  obtain ⟨t', given, hrun', ⟨hphase, hx', hsrc', hcmds', hagenda', -⟩, hgiven⟩ :=
    run_next_of_looksAlike n halike hrun
  exact ⟨t', given, hrun', hphase, hx', hsrc', hcmds', hagenda', hgiven⟩

end Sys2Proof.Machine
end

section
/-! PROOF. What a step may change of each piece of the state: the waiting words, the phase, `x`, `sync`, the buffer and
the response register (R22 to R29, R75, R76). -/

namespace Sys2Proof.Machine

/-! ## The buffer as a record -/

theorem recordByteAt_bufBytes (s : State) {n a : Nat} (h : a < n) : recordByteAt (s.bufBytes n) a = s.bufByte a := by
  simp [recordByteAt, State.bufBytes, h]

theorem State.bufBytes_take (s : State) {m n : Nat} (h : m ≤ n) : (s.bufBytes n).take m = s.bufBytes m := by
  simp [State.bufBytes, ← List.map_take, List.take_range, h]

/-- `CHECK` calls the buffer valid when its 41 bytes are a valid record (R74, R105). -/
theorem recordValid_bufBytes (s : State) : recordValid (s.bufBytes 41) = s.bufValid := by
  simp [recordValid, State.bufValid, State.computedChecksum, State.storedChecksum, s.bufBytes_take,
    recordByteAt_bufBytes]

/-- The fields that `CHECK` commits are those of the record (R57, R106). -/
theorem recordFields_bufBytes (s : State) : recordFields (s.bufBytes 41) = s.bufFields := by
  have hoffset : ∀ f, fieldOffset f + 3 < 41 := by intro f; cases f <;> decide
  unfold recordFields State.bufFields
  congr 1
  funext f
  have hf := hoffset f
  rw [recordByteAt_bufBytes s (by omega), recordByteAt_bufBytes s (by omega), recordByteAt_bufBytes s (by omega),
    recordByteAt_bufBytes s hf]
  rfl

/-! ## The rules -/

theorem exec_busy {s : State} (hbusy : s.phase ≠ .idle) (i : Instr) : exec i s = .next s := by
  rw [exec_eq]
  cases getField i <;> exact State.accept_busy hbusy _

/-- Settles O7: only the caller's own turn and the two acceptances in `IDLE` write the waiting words. -/
theorem busyCoreHoldsCommands : Obligations.BusyCoreHoldsCommands := by
  refine fun s hbusy => ⟨exec_busy hbusy, ?_⟩
  obtain ⟨t, hstep⟩ := step_next_of_busy hbusy
  refine ⟨t, hstep, ?_⟩
  cases stepShape_of_step hstep with
  | present c turn => exact .inr ⟨c, turn, rfl⟩
  | update rest turn phase | get c rest i f turn phase => exact absurd phase hbusy
  | _ => exact .inl rfl

/-- Settles O36: of all shapes only the commit and the reset write `x`. -/
theorem decodedStateChangesOnlyByCommit : Obligations.DecodedStateChangesOnlyByCommit := by
  intro s t hstep
  cases stepShape_of_step hstep with
  | reset turn => exact .inr (.inl ⟨turn, rfl⟩)
  | commit turn phase valid =>
    exact .inr (.inr ⟨turn, phase, (recordValid_bufBytes s).trans valid, (recordFields_bufBytes s).symm, rfl, rfl⟩)
  | _ => exact .inl rfl

/-- Settles O37: of all shapes only the acceptance of UPDATE, the marker and the reset write `sync`. -/
theorem syncChangesOnlyAtMarkerOrAcceptance : Obligations.SyncChangesOnlyAtMarkerOrAcceptance := by
  intro s t hstep
  cases stepShape_of_step hstep with
  | reset turn => exact .inr (.inl ⟨turn, rfl⟩)
  | update rest turn phase cmds => exact .inr (.inr (.inl ⟨turn, phase, rfl, cmds, rfl⟩))
  | marker i rest turn phase src => exact .inr (.inr (.inr ⟨turn, ⟨i, phase⟩, rfl, src, rfl⟩))
  | _ => exact .inl rfl

/-- A frame read as one cell sees it: the cell keeps its byte, or it is the one written and now holds the byte that was
the oldest of the backlog (R104). -/
theorem frameRead_bufByte_cases {s : State} {b : Byte} {rest : List Byte} (src : s.src = b :: rest) (j : Fin 41)
    (a : Nat) :
    (State.writeBuf { s.popTurn with src := rest } j b).bufByte a = s.bufByte a ∨
    (a = j.val ∧ s.src = (State.writeBuf { s.popTurn with src := rest } j b).bufByte a :: rest) := by
  rw [State.writeBuf_bufByte]
  split_ifs with h
  · exact .inr ⟨h, src⟩
  · exact .inl rfl

/-- Settles O38: of all shapes but reset only the two of the frame read write the buffer. -/
theorem bufferWrittenOnlyByFrameRead : Obligations.BufferWrittenOnlyByFrameRead := by
  intro s t a hstep hreset
  cases stepShape_of_step hstep with
  | reset turn => exact absurd turn hreset
  | record j b rest h turn phase src =>
    exact (frameRead_bufByte_cases src j a).imp_right fun ⟨ha, hb⟩ => ⟨turn, ⟨j, phase, ha⟩, hb⟩
  | lastRecord b rest turn phase src =>
    exact (frameRead_bufByte_cases src 40 a).imp_right fun ⟨ha, hb⟩ => ⟨turn, ⟨40, phase, ha⟩, hb⟩
  | _ => exact .inl rfl

/-- Settles O40: each shape on the decoder's turn is one edge between phases, or stays where it is. -/
theorem phaseAdvancesAsStated : Obligations.PhaseAdvancesAsStated := by
  intro s t hstep
  cases stepShape_of_step hstep with
  | reset turn => exact .inr (.inl ⟨turn, rfl⟩)
  | arrive | present | unasked | wait => exact .inl rfl
  | get c rest i f turn phase => exact .inl phase.symm
  | update rest turn phase => exact .inr (.inr ⟨turn, .inl ⟨phase, rfl⟩⟩)
  | startSearch turn phase => exact .inr (.inr ⟨turn, .inr (.inl ⟨phase, .inl rfl⟩)⟩)
  | noData turn phase => exact .inr (.inr ⟨turn, .inr (.inl ⟨phase, .inr rfl⟩)⟩)
  | marker i rest turn phase => exact .inr (.inr ⟨turn, .inr (.inr (.inl ⟨i, phase, .inl rfl⟩))⟩)
  | skip i b rest h turn phase => exact .inr (.inr ⟨turn, .inr (.inr (.inl ⟨i, phase, .inr (.inl ⟨h, rfl⟩)⟩))⟩)
  | noSync b rest turn phase =>
    exact .inr (.inr ⟨turn, .inr (.inr (.inl ⟨5, phase, .inr (.inr ⟨rfl, rfl⟩)⟩))⟩)
  | record j b rest h turn phase =>
    exact .inr (.inr ⟨turn, .inr (.inr (.inr (.inl ⟨j, phase, .inl ⟨h, rfl⟩⟩)))⟩)
  | lastRecord b rest turn phase =>
    exact .inr (.inr ⟨turn, .inr (.inr (.inr (.inl ⟨40, phase, .inr ⟨rfl, rfl⟩⟩)))⟩)
  | commit turn phase | badChecksum turn phase =>
    exact .inr (.inr ⟨turn, .inr (.inr (.inr (.inr ⟨phase, rfl⟩)))⟩)

/-- Settles O42: `rsp` is written by a response only, which a GET and the four ends of an UPDATE give. -/
theorem responseRegisterHoldsLastResponse : Obligations.ResponseRegisterHoldsLastResponse := by
  intro s t hstep hreset
  cases stepShape_of_step hstep with
  | reset turn => exact absurd turn hreset
  | get c rest i f turn | noData turn | noSync b rest turn | commit turn | badChecksum turn =>
    exact .inr ⟨turn, rfl, rfl⟩
  | _ => exact .inl ⟨rfl, rfl⟩

end Sys2Proof.Machine
end

section
/-! PROOF. A command in progress that has its bytes ends (R21, R55). `transitionsLeft` falls with every step of a core
that is fed, and `bytesWanted` says how many bytes keep it fed. -/

namespace Sys2Proof.Machine

/-- The most transitions that a command in this phase still takes. -/
def transitionsLeft : Phase → Nat
  | .idle => 0
  | .avail => 49
  | .sync i => 48 - i.val
  | .read j => 42 - j.val
  | .check => 1

/-- The most bytes that a command in this phase can still read. -/
def bytesWanted : Phase → Nat
  | .idle => 0
  | .avail => 47
  | .sync i => 47 - i.val
  | .read j => 41 - j.val
  | .check => 0

/-- `t` comes after `s` in the same command: nearer to its end, still fed, and with no response given yet. -/
structure FedProgress (s t : State) : Prop where
  busy : t.phase ≠ .idle
  agenda : t.agenda = []
  nearer : transitionsLeft t.phase < transitionsLeft s.phase
  fed : bytesWanted t.phase ≤ t.src.length
  responses : t.responses = s.responses

/-- The command of `s` ends in `t` with one response, 0 or 1. -/
structure UpdateEnds (s t : State) : Prop where
  idle : t.phase = .idle
  rsp : t.rsp = 0#32 ∨ t.rsp = 1#32
  responses : t.responses = s.responses ++ [t.rsp]

theorem transitionsLeft_pos {p : Phase} (h : p ≠ .idle) : 0 < transitionsLeft p := by
  cases p with
  | idle => exact absurd rfl h
  | avail | check => decide
  | sync | read => simp only [transitionsLeft]; omega

theorem transitionsLeft_le (p : Phase) : transitionsLeft p ≤ 49 := by
  cases p <;> simp only [transitionsLeft] <;> omega

theorem bytesWanted_le (p : Phase) : bytesWanted p ≤ 47 := by
  cases p <;> simp only [bytesWanted] <;> omega

/-- A waiting core still wants a byte, so one that is fed does not wait. -/
theorem not_waiting_of_fed {s : State} (hfed : bytesWanted s.phase ≤ s.src.length) : s.waiting ≠ true := by
  intro h
  obtain ⟨hsrc, ⟨i, hp⟩ | ⟨j, hp⟩⟩ := s.waiting_iff.1 h <;> rw [hp, hsrc] at hfed <;>
    simp only [bytesWanted, List.length_nil] at hfed <;> omega

/-- A step that reads a byte keeps the core fed when the byte is one that the command wanted. -/
theorem FedProgress.of_read {s t : State} {b : Byte} {rest : List Byte} (src : s.src = b :: rest) (hsrc : t.src = rest)
    (hfed : bytesWanted s.phase ≤ s.src.length) (hbusy : t.phase ≠ .idle) (hagenda : t.agenda = [])
    (hresponses : t.responses = s.responses)
    (hless : transitionsLeft t.phase < transitionsLeft s.phase ∧ bytesWanted t.phase < bytesWanted s.phase) :
    FedProgress s t where
  busy := hbusy
  agenda := hagenda
  nearer := hless.1
  fed := by
    rw [src, List.length_cons] at hfed
    rw [hsrc]
    omega
  responses := hresponses

/-- One step of a busy core that is fed and alone: the command goes on, or it ends. -/
theorem step_of_fed {s : State} (hbusy : s.phase ≠ .idle) (hagenda : s.agenda = [])
    (hfed : bytesWanted s.phase ≤ s.src.length) : ∃ t, step s = .next t ∧ (FedProgress s t ∨ UpdateEnds s t) := by
  obtain ⟨t, hstep⟩ := step_next_of_busy hbusy
  refine ⟨t, hstep, ?_⟩
  have hturn : s.nextTurn = .decoder := State.nextTurn_nil hagenda
  have htail : s.agenda.tail = [] := by simp [hagenda]
  cases stepShape_of_step hstep with
  | arrive bytes turn | present c turn | reset turn => rw [hturn] at turn; cases turn
  | unasked turn phase | update rest turn phase | get c rest i f turn phase => exact absurd phase hbusy
  | wait turn waiting => exact absurd waiting (not_waiting_of_fed hfed)
  | startSearch turn phase enough =>
    rw [phase] at hfed
    exact .inl ⟨nofun, htail, by simp [phase, transitionsLeft], hfed, rfl⟩
  | marker i rest turn phase src =>
    exact .inl (.of_read src rfl hfed nofun htail rfl (by
      rw [phase]; simp only [State.goto_phase, transitionsLeft, bytesWanted]; omega))
  | skip i b rest h turn phase src =>
    exact .inl (.of_read src rfl hfed nofun htail rfl (by
      rw [phase]; simp only [State.goto_phase, transitionsLeft, bytesWanted]; omega))
  | record j b rest h turn phase src =>
    exact .inl (.of_read src rfl hfed nofun htail rfl (by
      rw [phase]; simp only [State.goto_phase, transitionsLeft, bytesWanted]; omega))
  | lastRecord b rest turn phase src =>
    exact .inl (.of_read src rfl hfed nofun htail rfl (by simp [phase, transitionsLeft, bytesWanted]))
  | noData | noSync | badChecksum => exact .inr ⟨rfl, .inl rfl, rfl⟩
  | commit => exact .inr ⟨rfl, .inr rfl, rfl⟩

/-- A fed command ends within the transitions it has left, by induction on their number. -/
theorem run_of_fed (n : Nat) {s : State} (hbusy : s.phase ≠ .idle) (hagenda : s.agenda = [])
    (hfed : bytesWanted s.phase ≤ s.src.length) (hn : transitionsLeft s.phase ≤ n) :
    ∃ m t, m ≤ n ∧ run m s = .next t ∧ UpdateEnds s t := by
  induction n generalizing s with
  | zero => exact absurd (transitionsLeft_pos hbusy) (by omega)
  | succ n ih =>
    obtain ⟨u, hstep, hgoes | hends⟩ := step_of_fed hbusy hagenda hfed
    · obtain ⟨m, t, hm, hrun, hidle, hrsp, hresponses⟩ :=
        ih hgoes.busy hgoes.agenda hgoes.fed (by have := hgoes.nearer; omega)
      exact ⟨m + 1, t, by omega, by rw [run_succ_next hstep, hrun], hidle, hrsp, hgoes.responses ▸ hresponses⟩
    · exact ⟨1, u, by omega, by rw [run_succ_next hstep, run_zero], hends⟩

/-- Settles O33: no phase has more than 49 transitions left or wants more than 47 bytes. -/
theorem fedUpdateEnds : Obligations.FedUpdateEnds := by
  intro s hbusy hagenda hlen
  obtain ⟨n, t, hn, hrun, hidle, hrsp, hresponses⟩ :=
    run_of_fed 49 hbusy hagenda ((bytesWanted_le _).trans hlen) (transitionsLeft_le _)
  exact ⟨n, t, hn, hrun, hidle, hrsp, hresponses⟩

end Sys2Proof.Machine
end

section
/-! PROOF. The Byte Source and the decoder (R52 to R54): what an arrival does, what a wait is, and that a byte is taken
in the search and in the frame read only, the oldest first. -/

namespace Sys2Proof.Machine

/-! ## Turns of the environment, and what a step does with the backlog -/

/-- Settles O18: the two turns as whole states. -/
theorem environmentTurns : Obligations.EnvironmentTurns :=
  ⟨fun _ _ turn => step_arrive turn, fun _ _ turn => step_present turn⟩

/-- Settles O39: of all shapes only the four that read a byte shorten the backlog, and only an arrival lengthens it. -/
theorem sourceConsumedInOrder : Obligations.SourceConsumedInOrder := by
  intro s t hstep
  cases stepShape_of_step hstep with
  | arrive bytes turn => exact .inr (.inl ⟨bytes, turn, rfl⟩)
  | marker i rest turn phase src => exact .inr (.inr ⟨turn, .inl ⟨i, phase⟩, _, src⟩)
  | skip i b rest h turn phase src => exact .inr (.inr ⟨turn, .inl ⟨i, phase⟩, b, src⟩)
  | noSync b rest turn phase src => exact .inr (.inr ⟨turn, .inl ⟨5, phase⟩, b, src⟩)
  | record j b rest h turn phase src => exact .inr (.inr ⟨turn, .inr ⟨j, phase⟩, b, src⟩)
  | lastRecord b rest turn phase src => exact .inr (.inr ⟨turn, .inr ⟨40, phase⟩, b, src⟩)
  | _ => exact .inl rfl

/-! ## The wait -/

/-- Settles O21: a waiting decoder's step is the wait, which changes nothing but the agenda, and that is empty. -/
theorem unfedUpdateHangs : Obligations.UnfedUpdateHangs := by
  intro s n hwait hagenda
  have hstep : step s = .next s := by
    have h := step_next_iff.2 (StepShape.wait (State.nextTurn_nil hagenda) hwait)
    rwa [State.popTurn_nil hagenda] at h
  induction n with
  | zero => exact run_zero s
  | succ n ih => rw [run_succ_next hstep, ih]

/-- In the search and in the frame read the decoder's step takes the oldest byte and goes on to another phase. -/
theorem step_takes_oldest {s : State} {b : Byte} {rest : List Byte} (turn : s.decoderMoves)
    (hreads : (∃ i, s.phase = .sync i) ∨ ∃ j, s.phase = .read j) (src : s.src = b :: rest) :
    ∃ t, step s = .next t ∧ t.src = rest ∧ t.phase ≠ s.phase := by
  rcases hreads with ⟨i, phase⟩ | ⟨j, phase⟩
  · by_cases hb : b = 0xFA#8
    · subst hb
      exact ⟨_, step_next_iff.2 (.marker i rest turn phase src), rfl, by simp [phase]⟩
    by_cases hi : i.val + 1 < 6
    · exact ⟨_, step_next_iff.2 (.skip i b rest hi turn phase src hb), rfl, by simp [phase, Fin.ext_iff]⟩
    · obtain rfl : i = 5 := by omega
      exact ⟨_, step_next_iff.2 (.noSync b rest turn phase src hb), rfl, by simp [phase]⟩
  · by_cases hj : j.val + 1 < 41
    · exact ⟨_, step_next_iff.2 (.record j b rest hj turn phase src), rfl, by simp [phase, Fin.ext_iff]⟩
    · obtain rfl : j = 40 := by omega
      exact ⟨_, step_next_iff.2 (.lastRecord b rest turn phase src), rfl, by simp [phase]⟩

/-- Settles O22: the backlog of a waiting decoder is empty, so the first byte that arrives is then its oldest. -/
theorem arrivalLiftsWait : Obligations.ArrivalLiftsWait := by
  intro s b bytes turns hwait hagenda
  obtain ⟨hsrc, hreads⟩ := s.waiting_iff.1 hwait
  have hfirst : s.nextTurn = .arrive (b :: bytes) := by simp [State.nextTurn, hagenda]
  have hturn : (s.popTurn.arrive (b :: bytes)).decoderMoves := by simp [State.decoderMoves, State.nextTurn, hagenda]
  have hbacklog : (s.popTurn.arrive (b :: bytes)).src = b :: bytes := by simp [hsrc]
  obtain ⟨t, hstep, htaken, hphase⟩ := step_takes_oldest hturn hreads hbacklog
  exact ⟨t, by rw [run_succ_next (step_arrive hfirst), run_succ_next hstep, run_zero], htaken, hphase⟩

/-! ## An arrival beside a step of the decoder -/

theorem StepShape.agenda_eq {s t : State} (h : StepShape s t) : t.agenda = s.agenda.tail := by
  cases h <;> rfl

/-- R78: an `IDLE` core refuses a presented word that decodes to no command. -/
theorem step_of_reserved {s : State} {c : Byte} {rest : List Byte} {r : Reject} (turn : s.decoderMoves)
    (hp : s.phase = .idle) (hc : s.cmds = c :: rest) (hword : decodeWord c = .error r) :
    step s = .refused (.reservedCommand c) := by
  rw [step_decoder turn, State.decoderTurn_idle (s := s.popTurn) hp,
    State.acceptPresented_reserved (s := s.popTurn) hc hword]

/-- Bytes that arrive first leave the shape of the decoder's step as it is: outside the threshold and a wait no guard
looks past the oldest byte. -/
theorem stepShape_after_arrival {s t : State} {bytes : List Byte} {turns : List Turn} (havail : s.phase ≠ .avail)
    (hwait : s.waiting = false) (hstep : StepShape { s with agenda := .decoder :: .arrive bytes :: turns } t) :
    StepShape (State.arrive { s with agenda := .decoder :: turns } bytes) (t.popTurn.arrive bytes) := by
  cases hstep with
  | arrive bytes' turn | present c turn | reset turn => cases turn
  | startSearch turn phase | noData turn phase => exact absurd phase havail
  | wait turn waiting => rw [← Bool.not_eq_true] at hwait; exact absurd waiting hwait
  | unasked turn phase cmds => exact .unasked rfl phase cmds
  | update rest turn phase cmds => exact .update rest rfl phase cmds
  | get c rest i f turn phase cmds word field => exact .get c rest i f rfl phase cmds word field
  | marker i rest turn phase src => exact .marker i (rest ++ bytes) rfl phase (congrArg (· ++ bytes) src)
  | skip i b rest h turn phase src noMarker =>
    exact .skip i b (rest ++ bytes) h rfl phase (congrArg (· ++ bytes) src) noMarker
  | noSync b rest turn phase src noMarker =>
    exact .noSync b (rest ++ bytes) rfl phase (congrArg (· ++ bytes) src) noMarker
  | record j b rest h turn phase src =>
    exact .record j b (rest ++ bytes) h rfl phase (congrArg (· ++ bytes) src)
  | lastRecord b rest turn phase src =>
    exact .lastRecord b (rest ++ bytes) rfl phase (congrArg (· ++ bytes) src)
  | commit turn phase valid => exact .commit rfl phase valid
  | badChecksum turn phase invalid => exact .badChecksum rfl phase invalid

/-- Settles O44: the decoder's step has the same shape on both sides of the arrival, or is refused on both. -/
theorem arrivalCommutesWithDecoderStep : Obligations.ArrivalCommutesWithDecoderStep := by
  intro s bytes turns havail hwait
  let arrived : State := State.arrive { s with agenda := .decoder :: turns } bytes
  have harrive : step { s with agenda := .arrive bytes :: .decoder :: turns } = .next arrived := step_arrive rfl
  rw [run_succ_next harrive]
  cases hstep : step { s with agenda := .decoder :: .arrive bytes :: turns } with
  | next t =>
    have hshape := stepShape_of_step hstep
    have hturn : t.nextTurn = .arrive bytes := by simp [State.nextTurn, hshape.agenda_eq]
    have hafter : step arrived = .next (t.popTurn.arrive bytes) :=
      step_next_iff.2 (stepShape_after_arrival havail hwait hshape)
    rw [run_succ_next hafter, run_succ_next hstep, run_succ_next (step_arrive hturn)]
  | fault f => exact nomatch f
  | refused r =>
    obtain ⟨-, phase, c, rest, cmds, word, rfl⟩ := step_refused hstep
    have hafter : step arrived = .refused (.reservedCommand c) := step_of_reserved rfl phase cmds word
    rw [run_succ_refused hafter, run_succ_refused hstep]

end Sys2Proof.Machine
end

section
/-! PROOF. An UPDATE under every schedule of decoder turns and arrivals (R55, R69, R110, R116). `ComesTo` says how far a
machine gets and which bytes are then still to come, whatever the turns between; waits and arrivals are dealt with once,
in `comesTo_of_decoder_turn`, and the search and the frame read are inductions on the bytes they read. -/

namespace Sys2Proof.Machine

open Sys2Proof.Claims

/-! ## What a backlog and a schedule bring -/

/-- The backlog and then the scheduled arrivals bring exactly these bytes, and only the decoder and the Byte
Source move. -/
structure Brings (src : List Byte) (turns : List Turn) (bytes : List Byte) : Prop where
  schedule : turns.all decoderOrArrival = true
  bytes : src ++ arrivalsOf turns = bytes

theorem brings_decoder_iff {src : List Byte} {turns : List Turn} {bytes : List Byte} :
    Brings src (.decoder :: turns) bytes ↔ Brings src turns bytes :=
  ⟨fun ⟨schedule, bytes⟩ => ⟨schedule, bytes⟩, fun ⟨schedule, bytes⟩ => ⟨schedule, bytes⟩⟩

theorem brings_arrive_iff {src first : List Byte} {turns : List Turn} {bytes : List Byte} :
    Brings src (.arrive first :: turns) bytes ↔ Brings (src ++ first) turns bytes := by
  have hassoc : src ++ first ++ arrivalsOf turns = src ++ arrivalsOf (.arrive first :: turns) :=
    List.append_assoc src first (arrivalsOf turns)
  exact ⟨fun ⟨schedule, bytes⟩ => ⟨schedule, hassoc.trans bytes⟩,
    fun ⟨schedule, bytes⟩ => ⟨schedule, hassoc.symm.trans bytes⟩⟩

/-- A turn of the decoder brings nothing. -/
theorem Brings.tail {s : State} {bytes : List Byte} (turn : s.decoderMoves) (h : Brings s.src s.agenda bytes) :
    Brings s.src s.agenda.tail bytes := by
  cases hagenda : s.agenda with
  | nil => rwa [hagenda] at h
  | cons first turns =>
    obtain rfl : first = .decoder := by
      simpa [State.decoderMoves, State.nextTurn, hagenda] using turn
    rw [hagenda] at h
    exact brings_decoder_iff.1 h

/-! ## How far a machine gets -/

/-- `s` runs to `t`, but for the backlog and the agenda, and these bytes are then still to come. It takes at most `k`
steps more than the scheduled turns it uses up. -/
def ComesTo (k : Nat) (s t : State) (bytes : List Byte) : Prop :=
  ∃ n src turns, n + turns.length ≤ s.agenda.length + k ∧ Brings src turns bytes ∧
    run n s = .next { t with src := src, agenda := turns }

theorem ComesTo.refl {s : State} {bytes : List Byte} (h : Brings s.src s.agenda bytes) : ComesTo 0 s s bytes :=
  ⟨0, s.src, s.agenda, by omega, h, run_zero s⟩

theorem ComesTo.trans {k l : Nat} {s t u : State} {bytes rest : List Byte} (h : ComesTo k s t bytes)
    (hnext : ∀ src turns, Brings src turns bytes → ComesTo l { t with src := src, agenda := turns } u rest) :
    ComesTo (k + l) s u rest := by
  obtain ⟨n, src, turns, hn, hbrings, hrun⟩ := h
  obtain ⟨m, src', turns', hm, hbrings', hrun'⟩ := hnext src turns hbrings
  have hm' : m + turns'.length ≤ turns.length + l := hm
  exact ⟨n + m, src', turns', by omega, hbrings', (run_add hrun m).trans hrun'⟩

/-- A step that uses up a scheduled turn costs nothing. -/
theorem ComesTo.of_turn {k : Nat} {s u t : State} {bytes : List Byte} (hstep : step s = .next u)
    (hused : u.agenda.length < s.agenda.length) (h : ComesTo k u t bytes) : ComesTo k s t bytes := by
  obtain ⟨n, src, turns, hn, hbrings, hrun⟩ := h
  exact ⟨n + 1, src, turns, by omega, hbrings, (run_succ_next hstep n).trans hrun⟩

/-- A step of the decoder costs one. -/
theorem ComesTo.of_shape {s t : State} {src bytes : List Byte} (hbrings : Brings src s.agenda.tail bytes)
    (hshape : StepShape s { t with src := src, agenda := s.agenda.tail }) : ComesTo 1 s t bytes :=
  ⟨1, src, s.agenda.tail, by rw [List.length_tail]; omega, hbrings, run_succ_next (step_next_iff.2 hshape) 0⟩

/-- Waits and arrivals change nothing but the backlog and the agenda: with bytes enough to come, the machine gets as far
as it gets from the decoder's next turn with its byte. By induction on the agenda. -/
theorem comesTo_of_decoder_turn {k : Nat} {s t : State} {bytes rest : List Byte}
    (hbrings : Brings s.src s.agenda bytes) (hfed : State.waiting { s with src := bytes } = false)
    (hnext : ∀ src turns, Brings src turns bytes → State.decoderMoves { s with src := src, agenda := turns } →
      State.waiting { s with src := src, agenda := turns } = false →
      ComesTo k { s with src := src, agenda := turns } t rest) :
    ComesTo k s t rest := by
  induction hagenda : s.agenda generalizing s with
  | nil =>
    have hsrc : s.src = bytes := by simpa [hagenda, arrivalsOf] using hbrings.bytes
    subst hsrc
    exact hnext s.src s.agenda hbrings (State.nextTurn_nil hagenda) hfed
  | cons first turns ih =>
    have hturn : s.nextTurn = first := by simp [State.nextTurn, hagenda]
    have htail : s.popTurn.agenda = turns := by simp [hagenda]
    have hused : s.popTurn.agenda.length < s.agenda.length := by simp [hagenda]
    rw [hagenda] at hbrings
    cases first with
    | decoder =>
      cases hwait : s.waiting with
      | false => exact hnext s.src s.agenda (hagenda ▸ hbrings) hturn hwait
      | true =>
        have hrest : Brings s.src s.popTurn.agenda bytes := htail ▸ brings_decoder_iff.1 hbrings
        exact .of_turn (step_next_iff.2 (.wait hturn hwait)) hused (ih hrest hfed hnext htail)
    | arrive first =>
      have hrest : Brings (s.src ++ first) s.popTurn.agenda bytes := htail ▸ brings_arrive_iff.1 hbrings
      exact .of_turn (step_arrive hturn) hused (ih (s := s.popTurn.arrive first) hrest hfed hnext htail)
    | present c => exact absurd hbrings.schedule (by simp [decoderOrArrival])
    | reset => exact absurd hbrings.schedule (by simp [decoderOrArrival])

/-- In the search and in the frame read: it is enough to say what the decoder does with its byte. -/
theorem comesTo_of_read {s t : State} {b : Byte} {rest : List Byte}
    (hreads : (∃ i, s.phase = .sync i) ∨ ∃ j, s.phase = .read j) (hbrings : Brings s.src s.agenda (b :: rest))
    (hshape : ∀ src turns, State.decoderMoves { s with src := b :: src, agenda := turns } →
      StepShape { s with src := b :: src, agenda := turns } { t with src := src, agenda := turns.tail }) :
    ComesTo 1 s t rest := by
  have hwaits : ∀ src turns, State.waiting { s with src := src, agenda := turns } = true ↔ src = [] := by
    simp [State.waiting_iff, hreads]
  have hfed : State.waiting { s with src := b :: rest } = false := by simp [← Bool.not_eq_true, hwaits]
  refine comesTo_of_decoder_turn hbrings hfed fun src turns hbrings' turn hwait => ?_
  have htail := hbrings'.tail turn
  cases src with
  | nil => rw [← Bool.not_eq_true, hwaits] at hwait; exact absurd rfl hwait
  | cons b' src =>
    obtain ⟨rfl, hrest⟩ := List.cons.inj htail.bytes
    exact .of_shape ⟨htail.schedule, hrest⟩ (hshape src turns turn)

/-- In `CHECK`: the decoder's step leaves the bytes that are to come. -/
theorem comesTo_of_check {s t : State} {bytes : List Byte} (phase : s.phase = .check)
    (hbrings : Brings s.src s.agenda bytes)
    (hshape : ∀ src turns, State.decoderMoves { s with src := src, agenda := turns } →
      StepShape { s with src := src, agenda := turns } { t with src := src, agenda := turns.tail }) :
    ComesTo 1 s t bytes :=
  comesTo_of_decoder_turn hbrings (by simp [State.waiting, phase]) fun src turns hbrings' turn _ =>
    .of_shape (hbrings'.tail turn) (hshape src turns turn)

/-! ## The search -/

/-- The search reads past bytes that are not the marker (R103), by induction on them. -/
theorem comesTo_past_noise {s : State} {i j : Fin 6} {noise rest : List Byte} (phase : s.phase = .sync i)
    (hbrings : Brings s.src s.agenda (noise ++ rest)) (hnoMarker : 0xFA#8 ∉ noise)
    (hj : j.val = i.val + noise.length) : ComesTo noise.length s { s with phase := .sync j } rest := by
  induction noise generalizing s i with
  | nil =>
    obtain rfl : j = i := Fin.ext hj
    rw [← phase]
    exact .refl hbrings
  | cons b noise ih =>
    obtain ⟨hb, hnoise⟩ := List.ne_and_not_mem_of_not_mem_cons hnoMarker
    rw [List.length_cons] at hj
    have hi : i.val + 1 < 6 := by omega
    have hskip : ComesTo 1 s { s with phase := .sync ⟨i.val + 1, hi⟩ } (noise ++ rest) :=
      comesTo_of_read (.inl ⟨i, phase⟩) hbrings fun src turns turn => .skip i b src hi turn phase rfl (Ne.symm hb)
    rw [List.length_cons, Nat.add_comm]
    exact hskip.trans fun src turns hrest => ih rfl hrest hnoise (by simp only [hj]; omega)

/-- R103, R110: the marker among the first six bytes starts the frame read. -/
theorem comesTo_read_of_marker {s : State} {noise rest : List Byte} (phase : s.phase = .sync 0)
    (hbrings : Brings s.src s.agenda (noise ++ 0xFA#8 :: rest)) (hlen : noise.length ≤ 5)
    (hnoMarker : 0xFA#8 ∉ noise) :
    ComesTo (noise.length + 1) s { s with phase := .read 0, sync := true } rest :=
  (comesTo_past_noise (j := ⟨noise.length, by omega⟩) phase hbrings hnoMarker (Nat.zero_add _).symm).trans
    fun _ _ hrest => comesTo_of_read (.inl ⟨_, rfl⟩) hrest fun src _ turn => .marker _ src turn rfl rfl

/-- R103, R110: six bytes without the marker end the UPDATE NO_SYNC. -/
theorem comesTo_noSync {s : State} {noise rest : List Byte} (phase : s.phase = .sync 0)
    (hbrings : Brings s.src s.agenda (noise ++ rest)) (hlen : noise.length = 6) (hnoMarker : 0xFA#8 ∉ noise) :
    ComesTo 6 s (s.finishUpdate .noSync updateFalse) rest := by
  obtain ⟨five, b, rfl⟩ : ∃ five b, noise = five ++ [b] :=
    ⟨_, _, (List.dropLast_append_getLast (List.ne_nil_of_length_eq_add_one hlen)).symm⟩
  have hfive : five.length = 5 := by simpa using hlen
  obtain ⟨hnoMarker, hb⟩ : 0xFA#8 ∉ five ∧ 0xFA#8 ≠ b := by simpa using hnoMarker
  rw [List.append_assoc] at hbrings
  have hsearch := comesTo_past_noise (j := 5) phase hbrings hnoMarker (by simp [hfive])
  rw [hfive] at hsearch
  exact hsearch.trans fun _ _ hrest =>
    comesTo_of_read (.inl ⟨5, rfl⟩) hrest fun src _ turn => .noSync b src turn rfl rfl hb.symm

/-! ## The frame read -/

/-- The buffer after bytes have been stored one by one from cell `j` on. -/
def Memory.writeFrom : Memory → Nat → List Byte → Memory
  | m, _, [] => m
  | m, j, b :: r => Memory.writeFrom (m.write j b) (j + 1) r

/-- A frame read's write adds its byte behind those that are in the buffer (R104). -/
theorem State.bufBytes_write (s : State) (n : Nat) (b : Byte) :
    State.bufBytes { s with buf := s.buf.write n b } (n + 1) = s.bufBytes n ++ [b] := by
  have hbelow : State.bufBytes { s with buf := s.buf.write n b } n = s.bufBytes n := s.bufBytes_congr fun a ha => by
    simp only [State.bufByte, Memory.lookup_write_other s.buf b (Nat.ne_of_lt ha)]
  have hcell : State.bufByte { s with buf := s.buf.write n b } n = b := by simp [State.bufByte]
  rw [← hbelow, State.bufBytes, List.range_succ, List.map_append, List.map_singleton, hcell]
  rfl

theorem State.bufBytes_writeFrom (s : State) (n : Nat) (r : List Byte) :
    State.bufBytes { s with buf := s.buf.writeFrom n r } (n + r.length) = s.bufBytes n ++ r := by
  induction r generalizing s n with
  | nil => simp [Memory.writeFrom]
  | cons b r ih =>
    have hlater := ih { s with buf := s.buf.write n b } (n + 1)
    rw [s.bufBytes_write, List.append_assoc, Nat.add_right_comm] at hlater
    exact hlater

/-- The frame read stores the bytes up to the last cell (R104), by induction on them. -/
theorem comesTo_check {s : State} {j : Fin 41} {r rest : List Byte} (phase : s.phase = .read j)
    (hbrings : Brings s.src s.agenda (r ++ rest)) (hlen : j.val + r.length = 41) :
    ComesTo r.length s { s with phase := .check, buf := s.buf.writeFrom j.val r } rest := by
  induction r generalizing s j with
  | nil => exact absurd hlen (by simp only [List.length_nil]; omega)
  | cons b r ih =>
    rw [List.length_cons] at hlen
    by_cases hj : j.val + 1 < 41
    · have hread : ComesTo 1 s { s with phase := .read ⟨j.val + 1, hj⟩, buf := s.buf.write j.val b } (r ++ rest) :=
        comesTo_of_read (.inr ⟨j, phase⟩) hbrings fun src turns turn => .record j b src hj turn phase rfl
      rw [List.length_cons, Nat.add_comm]
      have hleft : j.val + 1 + r.length = 41 := by omega
      exact hread.trans fun src turns hrest => ih (j := ⟨j.val + 1, hj⟩) rfl hrest hleft
    · obtain rfl : j = 40 := by omega
      obtain rfl : r = [] := List.length_eq_zero_iff.1 (by omega)
      exact comesTo_of_read (.inr ⟨40, phase⟩) hbrings fun src turns turn => .lastRecord b src turn phase rfl

/-- After a whole frame read the buffer is the record (R70). -/
theorem bufBytes_writeFrom_record (s : State) {r : List Byte} (hlen : r.length = 41) :
    State.bufBytes { s with buf := s.buf.writeFrom 0 r } 41 = r := by
  have h := s.bufBytes_writeFrom 0 r
  rwa [hlen, Nat.zero_add] at h

/-- R105 to R108: a valid record is committed. -/
theorem comesTo_decoded {s : State} {r rest : List Byte} (phase : s.phase = .read 0)
    (hbrings : Brings s.src s.agenda (r ++ rest)) (hlen : r.length = 41) (hvalid : recordValid r = true) :
    ComesTo 42 s (State.finishUpdate { s with buf := s.buf.writeFrom 0 r, x := recordFields r } .decoded updateTrue)
      rest := by
  have hread := comesTo_check phase hbrings (by simp [hlen])
  have hbytes := bufBytes_writeFrom_record s hlen
  have hbuf : State.bufValid { s with buf := s.buf.writeFrom 0 r } = true := by
    rw [← recordValid_bufBytes, hbytes, hvalid]
  have hfields : State.bufFields { s with buf := s.buf.writeFrom 0 r } = recordFields r := by
    rw [← recordFields_bufBytes, hbytes]
  rw [hlen] at hread
  rw [← hfields]
  exact hread.trans fun _ _ hrest => comesTo_of_check rfl hrest fun _ _ turn => .commit turn rfl hbuf

/-- R105: a record with a wrong checksum leaves `x` as it is. -/
theorem comesTo_badChecksum {s : State} {r rest : List Byte} (phase : s.phase = .read 0)
    (hbrings : Brings s.src s.agenda (r ++ rest)) (hlen : r.length = 41) (hinvalid : recordValid r = false) :
    ComesTo 42 s (State.finishUpdate { s with buf := s.buf.writeFrom 0 r } .badChecksum updateFalse) rest := by
  have hread := comesTo_check phase hbrings (by simp [hlen])
  have hbuf : State.bufValid { s with buf := s.buf.writeFrom 0 r } = false := by
    rw [← recordValid_bufBytes, bufBytes_writeFrom_record s hlen, hinvalid]
  rw [hlen] at hread
  exact hread.trans fun _ _ hrest => comesTo_of_check rfl hrest fun _ _ turn => .badChecksum turn rfl hbuf

/-! ## The whole search -/

/-- Settles O32: the search and the frame read come as far as their bytes bring them, whatever the schedule. -/
theorem updateUnderAnyArrivals : Obligations.UpdateUnderAnyArrivals := by
  refine fun s phase hschedule => ⟨fun noise r rest hbytes hnoise hnoMarker hwf => ?_,
    fun noise rest hbytes hnoise hnoMarker => ?_⟩
  · have hlen : r.length = 41 := by simpa [recordWellFormed] using hwf
    have hsearch := comesTo_read_of_marker phase ⟨hschedule, hbytes⟩ hnoise hnoMarker
    cases hvalid : recordValid r with
    | true =>
      have hend : ComesTo (noise.length + 1 + 42) s (State.finishUpdate
          { s with sync := true, buf := s.buf.writeFrom 0 r, x := recordFields r } .decoded updateTrue) rest :=
        hsearch.trans fun _ _ hrecord => comesTo_decoded rfl hrecord hlen hvalid
      obtain ⟨n, src, turns, hn, hbrings, hrun⟩ := hend
      exact ⟨n, _, by omega, hrun, rfl, rfl, hbrings.bytes, rfl, fun _ => ⟨rfl, rfl, rfl⟩, nofun⟩
    | false =>
      have hend : ComesTo (noise.length + 1 + 42) s (State.finishUpdate
          { s with sync := true, buf := s.buf.writeFrom 0 r } .badChecksum updateFalse) rest :=
        hsearch.trans fun _ _ hrecord => comesTo_badChecksum rfl hrecord hlen hvalid
      obtain ⟨n, src, turns, hn, hbrings, hrun⟩ := hend
      exact ⟨n, _, by omega, hrun, rfl, rfl, hbrings.bytes, rfl, nofun, fun _ => ⟨rfl, rfl, rfl⟩⟩
  · obtain ⟨n, src, turns, hn, hbrings, hrun⟩ := comesTo_noSync phase ⟨hschedule, hbytes⟩ hnoise hnoMarker
    exact ⟨n, _, by omega, hrun, rfl, rfl, hbrings.bytes, rfl, rfl, rfl, rfl⟩

end Sys2Proof.Machine
end

section
/-! PROOF. The command words (R77 to R81): the two nibbles of a word make the word again, so that decoding a word and
encoding a command are inverse to each other. The opcode map and the assembler's words follow. -/

namespace Sys2Proof

open Sys2Proof.Machine Sys2Proof.Claims

/-! ## A word and its two nibbles -/

/-- R77: `op` and `k` are all of a command word. -/
theorem commandOp_append_commandIndex (c : Byte) : commandOp c ++ commandIndex c = c := by
  unfold commandOp commandIndex
  rw [BitVec.extractLsb'_append_extractLsb'_eq_extractLsb' (by decide), BitVec.extractLsb'_eq_self]

/-- The command found at an index carries that index in its own word, as a GET (R79). -/
theorem fields_of_getOfIndex {n : Nat} {i : Instr} (h : getOfIndex n = some i) :
    i.opField = 0x1#4 ∧ i.indexField.toNat = n := by
  unfold getOfIndex at h
  split at h <;> cases h <;> exact ⟨rfl, rfl⟩

/-- R63, R78: the indices 9..15 are reserved, and so is every number above them. -/
theorem getOfIndex_eq_none {n : Nat} (h : 9 ≤ n) : getOfIndex n = none := by
  obtain ⟨m, rfl⟩ := Nat.exists_eq_add_of_le' h
  rfl

/-! ## Decoding and encoding -/

theorem decodeWord_encode (i : Instr) : decodeWord (encode i) = .ok i := by
  cases i <;> rfl

/-- The nibbles of a word that decodes are those of its command. -/
theorem fields_of_decodeWord {c : Byte} {i : Instr} (h : decodeWord c = .ok i) :
    commandOp c = i.opField ∧ commandIndex c = i.indexField := by
  unfold decodeWord at h
  split_ifs at h with hupdate hget
  · cases h
    exact hupdate
  · split at h
    · next j hj =>
      cases h
      obtain ⟨hop, hindex⟩ := fields_of_getOfIndex hj
      exact ⟨hget.trans hop.symm, (BitVec.eq_of_toNat_eq hindex).symm⟩
    · cases h

/-- R77, R79: each command has one word. -/
theorem decodeWord_eq_ok_iff {c : Byte} {i : Instr} : decodeWord c = .ok i ↔ c = encode i := by
  refine ⟨fun h => ?_, fun h => h ▸ decodeWord_encode i⟩
  obtain ⟨hop, hindex⟩ := fields_of_decodeWord h
  rw [← commandOp_append_commandIndex c, hop, hindex]
  rfl

theorem Instr.wellFormed_eq_true (i : Instr) : i.wellFormed = true := by
  cases i <;> rfl

/-- R80: a byte sequence decodes exactly when its first byte is a command's word, and the rest is left. -/
theorem decode_eq_ok_iff {bytes rest : List Byte} {i : Instr} :
    decode bytes = .ok (i, rest) ↔ bytes = encode i :: rest := by
  refine ⟨fun h => ?_, fun h => h ▸ decode_cons_ok (decodeWord_encode i) rest⟩
  cases bytes with
  | nil => cases h
  | cons c tail =>
    cases hword : decodeWord c with
    | ok j =>
      rw [decode_cons_ok hword] at h
      cases h
      rw [decodeWord_eq_ok_iff.1 hword]
    | error r =>
      rw [decode_cons_error hword] at h
      cases h

/-! ## The rules -/

/-- Settles O1: the ten words are the commands' own, and a word that decodes is one of these. -/
theorem commandWordsDecode : Obligations.CommandWordsDecode := by
  refine ⟨decodeWord_encode .update, decodeWord_encode .getYaw, decodeWord_encode .getPitch,
    decodeWord_encode .getRoll, decodeWord_encode .getRatex, decodeWord_encode .getRatey,
    decodeWord_encode .getRatez, decodeWord_encode .getAccx, decodeWord_encode .getAccy,
    decodeWord_encode .getAccz, fun c i h => ?_⟩
  rw [decodeWord_eq_ok_iff.1 h]
  cases i <;> decide

/-- Settles O2: decoding is the inverse of encoding on the first byte, and every command is well-formed. -/
theorem decodeEncodeAgree : Obligations.DecodeEncodeAgree :=
  ⟨fun _ _ _ => decode_eq_ok_iff.2 rfl, fun _ i _ h => ⟨i.wellFormed_eq_true, decode_eq_ok_iff.1 h⟩⟩

/-- Settles O3: name by name and index by index, and no index above 8 has a command. -/
theorem assemblerWords : Obligations.AssemblerWords := by
  have hwords : ∀ k < 9, (assemble (.getIndex k)).map encode = some (BitVec.ofNat 8 (0x10 ||| k)) := by decide
  refine ⟨rfl, fun f => by cases f <;> rfl, fun k hk => hwords k (of_decide_eq_true hk), fun k hk => ?_⟩
  exact getOfIndex_eq_none (Nat.le_of_not_lt (of_decide_eq_false hk))

end Sys2Proof
end

section
/-! PROOF. What becomes of a presented word (R75 to R78): a reserved one is refused, a command's is executed, and every
command accepted gets one response. -/

namespace Sys2Proof.Machine

open Sys2Proof.Claims

/-! ## Acceptance and refusal -/

theorem reservedWord_encode (i : Instr) : reservedWord (encode i) = false := by
  cases i <;> decide

/-- R78: the words that the spec lists as reserved have no command. -/
theorem decodeWord_of_reservedWord {c : Byte} (h : reservedWord c = true) :
    decodeWord c = .error (.reservedCommand c) := by
  refine (decodeWord_ok_or_reserved c).resolve_left ?_
  rintro ⟨i, hword⟩
  rw [decodeWord_eq_ok_iff.1 hword, reservedWord_encode] at h
  cases h

set_option maxRecDepth 4000 in
/-- R78: 246 of the 256 words are reserved. -/
theorem reservedWord_count :
    ((List.range 256).filter fun w => reservedWord (BitVec.ofNat 8 w)).length = 246 := by
  rfl

/-- R203: a run that was refused is not good. -/
theorem not_goodRun_of_refused {n : Nat} {s : State} {r : Refusal} (h : run n s = .refused r) : ¬ goodRun n s := by
  rintro ⟨t, ht⟩
  rw [h] at ht
  cases ht

/-- Settles O4: a reserved word decodes to no command, so its acceptance is refused, and a refusal ends the run. -/
theorem reservedWordRefused : Obligations.ReservedWordRefused := by
  refine ⟨fun s c rest hidle turn hcmds hreserved => ?_, reservedWord_count⟩
  have hstep : step s = .refused (.reservedCommand c) :=
    step_of_reserved turn hidle hcmds (decodeWord_of_reservedWord hreserved)
  exact ⟨hstep, fun n => ⟨run_succ_refused hstep n, not_goodRun_of_refused (run_succ_refused hstep n)⟩⟩

/-- Settles O6: the decoder's turn on an `IDLE` core is the acceptance of the presented word. -/
theorem stepRunsPresentedCommand : Obligations.StepRunsPresentedCommand :=
  fun _ _ _ _ hidle turn hcmds hword _ => step_of_word turn hidle hcmds hword

/-! ## The frame of a command, and its response -/

/-- Settles O16: a held command changes nothing, an accepted UPDATE writes `sync` and the phase, a GET `rsp` and the
responses. -/
theorem commandFrame : Obligations.CommandFrame := by
  intro i s t hexec
  rcases exec_cases hexec with ⟨-, rfl⟩ | ⟨-, rfl, rfl⟩ | ⟨hidle, f, hf, rfl⟩
  · exact ⟨rfl, fun _ => rfl, rfl, rfl, rfl, rfl, fun _ => ⟨rfl, rfl⟩, fun _ => ⟨rfl, rfl⟩⟩
  · exact ⟨rfl, fun _ => rfl, rfl, rfl, rfl, rfl, fun hne => absurd rfl hne, fun _ => ⟨rfl, rfl⟩⟩
  · have hget : i ≠ .update := by rintro rfl; cases hf
    exact ⟨rfl, fun _ => rfl, rfl, rfl, rfl, rfl, fun _ => ⟨rfl, hidle.symm⟩, fun h => absurd h hget⟩

theorem inProgress_idle {s : State} (h : s.phase = .idle) : inProgress s = 0 := if_pos h

theorem inProgress_busy {s : State} (h : s.phase ≠ .idle) : inProgress s = 1 := if_neg h

/-- Settles O41: UPDATE's acceptance turns a waiting word into the command in progress, the end of an UPDATE turns that
into a response, a GET turns a waiting word into a response at once, and no other shape moves any of the three. -/
theorem oneResponsePerCommand : Obligations.OneResponsePerCommand := by
  intro s t hstep hreset
  cases stepShape_of_step hstep with
  | reset turn => exact absurd turn hreset
  | arrive bytes turn | unasked turn | wait turn => rw [turn]; rfl
  | present c turn =>
    have hprogress : inProgress (s.popTurn.present c) = inProgress s := rfl
    simp [turn, hprogress, presents]
    omega
  | update rest turn phase cmds =>
    rw [inProgress_idle phase, inProgress_busy (by simp)]
    simp [turn, cmds, presents, Nat.add_assoc]
  | get c rest i f turn phase cmds =>
    rw [inProgress_idle phase, inProgress_idle (by simp)]
    simp [turn, cmds, presents]
    omega
  | startSearch turn phase | marker i rest turn phase | skip i b rest h turn phase | record j b rest h turn phase
  | lastRecord b rest turn phase =>
    rw [inProgress_busy (s := s) (by simp [phase]), inProgress_busy (by simp), turn]
    rfl
  | noData turn phase | noSync b rest turn phase | commit turn phase | badChecksum turn phase =>
    rw [inProgress_busy (s := s) (by simp [phase]), inProgress_idle (by simp)]
    simp [turn, presents]
    omega

end Sys2Proof.Machine
end

section
/-! PROOF. The transitions of an UPDATE (R101 to R108), each as a whole state: a clause is one shape of a step, and a
shape answers its state (`step_next_iff`). -/

namespace Sys2Proof.Machine

/-- Settles O9: an `IDLE` core takes the word, and the meaning of UPDATE is the acceptance. -/
theorem updateAccepted : Obligations.UpdateAccepted :=
  fun s idle => (exec_eq .update s).trans (State.accept_idle idle _)

/-- Settles O10: the threshold has a shape for each side of its comparison. -/
theorem thresholdTransition : Obligations.ThresholdTransition :=
  fun _ turn phase => ⟨fun enough => step_next_iff.2 (.startSearch turn phase enough),
    fun few => step_next_iff.2 (.noData turn phase few)⟩

/-- Settles O11: the wait, the marker, another byte before the sixth and the sixth are the shapes of a search. -/
theorem searchTransition : Obligations.SearchTransition := by
  refine fun s i turn phase => ⟨fun src => ?wait, fun rest src => ?marker, fun b rest src noMarker h => ?skip,
    fun b rest src noMarker hi => ?noSync⟩
  case wait => exact step_next_iff.2 (.wait turn ((State.waiting_iff s).2 ⟨src, .inl ⟨i, phase⟩⟩))
  case marker => exact step_next_iff.2 (.marker i rest turn phase src)
  case skip => exact step_next_iff.2 (.skip i b rest h turn phase src noMarker)
  case noSync =>
    obtain rfl : i = 5 := Fin.ext hi
    exact step_next_iff.2 (.noSync b rest turn phase src noMarker)

/-- Settles O12: the two shapes of a frame read differ in the next phase only, and both write the one cell. -/
theorem frameReadTransition : Obligations.FrameReadTransition := by
  refine fun s j turn phase => ⟨fun src => ?wait, fun b rest src => ?byte⟩
  case wait => exact step_next_iff.2 (.wait turn ((State.waiting_iff s).2 ⟨src, .inr ⟨j, phase⟩⟩))
  case byte =>
    have hread := State.writeBuf_bufByte { s.popTurn with src := rest } j b
    have hcell := (hread j.val).trans (if_pos rfl)
    have hothers a (ha : a ≠ j.val) := (hread a).trans (if_neg ha)
    by_cases hj : j.val + 1 < 41
    · exact ⟨_, step_next_iff.2 (.record j b rest hj turn phase src), hcell, hothers, fun _ => rfl,
        fun hlast => absurd hj (by omega)⟩
    · obtain rfl : j = 40 := by omega
      exact ⟨_, step_next_iff.2 (.lastRecord b rest turn phase src), hcell, hothers, fun h => absurd h hj,
        fun _ => rfl⟩

/-- Settles O13: `CHECK` compares the two checksums, and the offsets `3 + 4k` of the fields it commits are those of
R57. -/
theorem checkTransition : Obligations.CheckTransition := by
  refine fun s turn phase => ⟨fun hequal => ?commit, fun hdiffer => ?badChecksum⟩
  case commit => exact step_next_iff.2 (.commit turn phase (s.bufValid_iff.2 hequal))
  case badChecksum =>
    have hinvalid : s.bufValid = false := Bool.eq_false_iff.2 fun hvalid => hdiffer (s.bufValid_iff.1 hvalid)
    exact step_next_iff.2 (.badChecksum turn phase hinvalid)

end Sys2Proof.Machine
end

section
/-! PROOF. A whole UPDATE with nothing scheduled but the decoder's turns (R100, R109 to R111, R114, R200): its exact
number of steps and the state it ends in, composed from runs of the acceptance, the search, the frame read and `CHECK`.
`ComesTo` bounds the number of steps from above only, so the search and the frame read are run again, step by step. -/

namespace Sys2Proof.Machine

theorem run_one {s t : State} (h : step s = .next t) : run 1 s = .next t := run_succ_next h 0

/-! ## The acceptance and the threshold -/

/-- R101: the first step of an UPDATE. -/
theorem step_accepts_update {s : State} {cmds : List Byte} (idle : s.phase = .idle) (hagenda : s.agenda = [])
    (hcmds : s.cmds = 0x00#8 :: cmds) :
    step s = .next { s with agenda := [], phase := .avail, cmds := cmds, sync := false } := by
  have h := step_next_iff.2 (StepShape.update cmds (State.nextTurn_nil hagenda) idle hcmds)
  rw [State.popTurn_nil hagenda] at h
  rw [← hagenda]
  exact h

/-- R102: with more than 4 bytes available an UPDATE is in its search after two steps. -/
theorem run_to_search {s : State} {cmds : List Byte} (idle : s.phase = .idle) (hagenda : s.agenda = [])
    (hcmds : s.cmds = 0x00#8 :: cmds) (enough : 4 < s.src.length) :
    run 2 s = .next { s with agenda := [], phase := .sync 0, cmds := cmds, sync := false } :=
  (run_succ_next (step_accepts_update idle hagenda hcmds) 1).trans
    (run_one (step_next_iff.2 (.startSearch rfl rfl enough)))

/-- Settles O28: the acceptance, and then the threshold that is not met. -/
theorem updateWithoutData : Obligations.UpdateWithoutData := by
  intro s cmds idle hagenda hcmds few
  rw [run_succ_next (step_accepts_update idle hagenda hcmds) 1, idle, hagenda]
  exact run_one (step_next_iff.2 (.noData rfl rfl few))

/-! ## The search -/

/-- R103: the search takes one step for each byte that is not the marker, by induction on them. -/
theorem run_past_noise (s : State) {i j : Fin 6} {noise : List Byte} (rest : List Byte) (hnoMarker : 0xFA#8 ∉ noise)
    (hj : j.val = i.val + noise.length) :
    run noise.length { s with agenda := [], phase := .sync i, src := noise ++ rest } =
      .next { s with agenda := [], phase := .sync j, src := rest } := by
  induction noise generalizing i with
  | nil =>
    obtain rfl : j = i := Fin.ext hj
    exact run_zero _
  | cons b noise ih =>
    obtain ⟨hb, hnoise⟩ := List.ne_and_not_mem_of_not_mem_cons hnoMarker
    rw [List.length_cons] at hj
    have hi : i.val + 1 < 6 := by omega
    have hskip : step { s with agenda := [], phase := .sync i, src := b :: noise ++ rest } = _ :=
      step_next_iff.2 (.skip i b (noise ++ rest) hi rfl rfl rfl hb.symm)
    rw [List.length_cons, run_succ_next hskip]
    exact ih hnoise (by simp only [hj]; omega)

/-- R103, R110: the marker among the first six bytes starts the frame read. -/
theorem run_to_marker (s : State) {noise : List Byte} (rest : List Byte) (hlen : noise.length ≤ 5)
    (hnoMarker : 0xFA#8 ∉ noise) :
    run (noise.length + 1) { s with agenda := [], phase := .sync 0, src := noise ++ 0xFA#8 :: rest } =
      .next { s with agenda := [], phase := .read 0, src := rest, sync := true } :=
  (run_add (run_past_noise s (j := ⟨noise.length, by omega⟩) _ hnoMarker (Nat.zero_add _).symm) 1).trans
    (run_one (step_next_iff.2 (.marker _ rest rfl rfl rfl)))

/-- R103, R110: six bytes without the marker end the search. -/
theorem run_to_noSync (s : State) {noise : List Byte} (rest : List Byte) (hlen : noise.length = 6)
    (hnoMarker : 0xFA#8 ∉ noise) :
    run 6 { s with agenda := [], phase := .sync 0, src := noise ++ rest } =
      .next (State.finishUpdate { s with agenda := [], src := rest } .noSync updateFalse) := by
  obtain ⟨five, b, rfl⟩ : ∃ five b, noise = five ++ [b] :=
    ⟨_, _, (List.dropLast_append_getLast (List.ne_nil_of_length_eq_add_one hlen)).symm⟩
  have hfive : five.length = 5 := by simpa using hlen
  obtain ⟨hnoMarker, hb⟩ : 0xFA#8 ∉ five ∧ 0xFA#8 ≠ b := by simpa using hnoMarker
  have hsearch := run_past_noise s (i := 0) (j := 5) (b :: rest) hnoMarker (by simp [hfive])
  rw [hfive] at hsearch
  rw [List.append_assoc]
  exact (run_add hsearch 1).trans (run_one (step_next_iff.2 (.noSync b rest rfl rfl rfl hb.symm)))

/-- Settles O29: two steps to the search, and six more that find no marker. -/
theorem updateWithoutMarker : Obligations.UpdateWithoutMarker := by
  intro s cmds noise rest idle hagenda hcmds hsrc hlen hnoMarker
  have hstart := run_to_search idle hagenda hcmds (by rw [hsrc, List.length_append]; omega)
  rw [hsrc] at hstart
  rw [run_add hstart 6, run_to_noSync { s with cmds := cmds, sync := false } rest hlen hnoMarker, idle, hagenda]
  rfl

/-! ## The frame read -/

/-- R104: the frame read takes one step for each byte up to the last cell, by induction on them. -/
theorem run_to_check (s : State) {j : Fin 41} {r : List Byte} (rest : List Byte) (hlen : j.val + r.length = 41) :
    run r.length { s with agenda := [], phase := .read j, src := r ++ rest } =
      .next { s with agenda := [], phase := .check, src := rest, buf := s.buf.writeFrom j.val r } := by
  induction r generalizing s j with
  | nil => exact absurd hlen (by simp only [List.length_nil]; omega)
  | cons b r ih =>
    rw [List.length_cons] at hlen ⊢
    by_cases hj : j.val + 1 < 41
    · have hread : step { s with agenda := [], phase := .read j, src := b :: r ++ rest } = _ :=
        step_next_iff.2 (.record j b (r ++ rest) hj rfl rfl rfl)
      rw [run_succ_next hread]
      exact ih { s with buf := s.buf.write j.val b } (j := ⟨j.val + 1, hj⟩) (by simp only; omega)
    · obtain rfl : j = 40 := by omega
      obtain rfl : r = [] := List.length_eq_zero_iff.1 (by omega)
      exact run_one (step_next_iff.2 (.lastRecord b rest rfl rfl rfl))

theorem Memory.lookup_writeFrom_past (m : Memory) {n a : Nat} (r : List Byte) (h : n + r.length ≤ a) :
    (m.writeFrom n r).lookup a = m.lookup a := by
  induction r generalizing m n with
  | nil => rfl
  | cons b r ih =>
    rw [List.length_cons] at h
    rw [Memory.writeFrom, ih _ (by omega), Memory.lookup_write_other m b (by omega)]

/-- After a whole frame read each cell holds its byte of the record (R70, R104). -/
theorem bufByte_writeFrom_record (s : State) {r : List Byte} (hlen : r.length = 41) {a : Nat} (ha : a < 41) :
    State.bufByte { s with buf := s.buf.writeFrom 0 r } a = recordByteAt r a := by
  rw [← recordByteAt_bufBytes _ ha, bufBytes_writeFrom_record s hlen]

/-- A whole frame read leaves every read past the record as it was (R104). -/
theorem bufByte_writeFrom_past (s : State) {r : List Byte} (hlen : r.length = 41) {a : Nat} (ha : 41 ≤ a) :
    State.bufByte { s with buf := s.buf.writeFrom 0 r } a = s.bufByte a := by
  simp only [State.bufByte, Memory.lookup_writeFrom_past s.buf r (by omega : 0 + r.length ≤ a)]

/-! ## UPDATE on a frame -/

/-- An UPDATE that finds the marker and 41 bytes after it comes to `CHECK` with those bytes in the buffer (R101 to
R104). -/
theorem run_update_to_check {s : State} {cmds noise r rest : List Byte} (idle : s.phase = .idle)
    (hagenda : s.agenda = []) (hcmds : s.cmds = 0x00#8 :: cmds) (hsrc : s.src = noise ++ 0xFA#8 :: (r ++ rest))
    (hnoise : noise.length ≤ 5) (hnoMarker : 0xFA#8 ∉ noise) (hlen : r.length = 41) :
    run (2 + (noise.length + 1) + 41) s = .next { s with
      agenda := [], phase := .check, cmds := cmds, sync := true, src := rest, buf := s.buf.writeFrom 0 r } := by
  have hstart := run_to_search idle hagenda hcmds (by
    simp only [hsrc, List.length_append, List.length_cons, hlen]; omega)
  rw [hsrc] at hstart
  have hsearch := run_to_marker { s with cmds := cmds, sync := false } (r ++ rest) hnoise hnoMarker
  have hread := run_to_check { s with cmds := cmds, sync := true } (j := 0) rest ((Nat.zero_add _).trans hlen)
  rw [hlen] at hread
  exact (run_add ((run_add hstart _).trans hsearch) 41).trans hread

/-- Settles O30: `CHECK` finds the record in the buffer, and commits it or not as it is valid or not. -/
theorem updateReadsFrame : Obligations.UpdateReadsFrame := by
  intro s cmds noise r rest idle hagenda hcmds hsrc hnoise hnoMarker hwf
  have hlen : r.length = 41 := by simpa [recordWellFormed] using hwf
  have hcheck := run_update_to_check idle hagenda hcmds hsrc hnoise hnoMarker hlen
  have hbytes := bufBytes_writeFrom_record s hlen
  have hvalidity := recordValid_bufBytes { s with buf := s.buf.writeFrom 0 r }
  have hfields := recordFields_bufBytes { s with buf := s.buf.writeFrom 0 r }
  rw [hbytes] at hvalidity hfields
  rw [run_add hcheck 1]
  cases hvalid : recordValid r with
  | true =>
    refine ⟨_, run_one (step_next_iff.2 (.commit rfl rfl (hvalidity.symm.trans hvalid))),
      fun _ => bufByte_writeFrom_record s hlen, fun _ => bufByte_writeFrom_past s hlen, fun _ => ?_, nofun⟩
    rw [hfields, idle, hagenda]
    rfl
  | false =>
    refine ⟨_, run_one (step_next_iff.2 (.badChecksum rfl rfl (hvalidity.symm.trans hvalid))),
      fun _ => bufByte_writeFrom_record s hlen, fun _ => bufByte_writeFrom_past s hlen, nofun, fun _ => ?_⟩
    rw [idle, hagenda]
    rfl

end Sys2Proof.Machine
end

section
/-! PROOF. The checksum on numbers (R140 to R143): a step on a `u16` is the source's step on a natural number and then
the truncation, since the low 16 bits of every step's result come from the low 16 bits of its operands. The one step
that moves high bits down, the swap, acts on a number already truncated. -/

namespace Sys2Proof.Machine

open Sys2Proof.Claims

/-! ## Truncation and the shifts -/

theorem ofNat_shiftLeft (n k : Nat) : BitVec.ofNat 16 (n <<< k) = BitVec.ofNat 16 n <<< k := by
  apply BitVec.eq_of_toNat_eq
  simp only [BitVec.toNat_ofNat, BitVec.toNat_shiftLeft, Nat.mod_two_pow_shiftLeft_mod_two_pow]

/-- A right shift brings no bit down past the truncation when there is none above it. -/
theorem ofNat_shiftRight {n : Nat} (hn : n < 2 ^ 16) (k : Nat) :
    BitVec.ofNat 16 (n >>> k) = BitVec.ofNat 16 n >>> k := by
  have hshift : n >>> k < 2 ^ 16 := (Nat.shiftRight_le n k).trans_lt hn
  apply BitVec.eq_of_toNat_eq
  simp only [BitVec.toNat_ofNat, BitVec.toNat_ushiftRight, Nat.mod_eq_of_lt hn, Nat.mod_eq_of_lt hshift]

/-! ## The five steps on a number -/

theorem crcSwap_ofNat {n : Nat} (hn : n < 2 ^ 16) :
    crcSwap (BitVec.ofNat 16 n) = BitVec.ofNat 16 ((n >>> 8) ||| (n <<< 8)) := by
  rw [crcSwap, BitVec.ofNat_or, ofNat_shiftRight hn, ofNat_shiftLeft]

theorem crcXorByte_ofNat (n : Nat) (d : Byte) :
    crcXorByte (BitVec.ofNat 16 n) d = BitVec.ofNat 16 (n ^^^ d.toNat) := by
  rw [crcXorByte, BitVec.ofNat_xor, BitVec.ofNat_toNat]

theorem crcNibble_ofNat (n : Nat) :
    crcNibble (BitVec.ofNat 16 n) = BitVec.ofNat 16 (n ^^^ ((n &&& 0xFF) >>> 4)) := by
  have hlow : n &&& 0xFF < 2 ^ 16 := Nat.and_le_right.trans_lt (by decide)
  rw [crcNibble, BitVec.ofNat_xor, ofNat_shiftRight hlow, BitVec.ofNat_and]

theorem crcShift12_ofNat (n : Nat) : crcShift12 (BitVec.ofNat 16 n) = BitVec.ofNat 16 (n ^^^ (n <<< 12)) := by
  rw [crcShift12, BitVec.ofNat_xor, ofNat_shiftLeft]

theorem crcShift5_ofNat (n : Nat) :
    crcShift5 (BitVec.ofNat 16 n) = BitVec.ofNat 16 (n ^^^ ((n &&& 0x00FF) <<< 5)) := by
  rw [crcShift5, BitVec.ofNat_xor, ofNat_shiftLeft, BitVec.ofNat_and]

/-- R141: one byte on the register is one iteration of the source's loop, truncated at its end. -/
theorem crcByte_toNat (crc : Word16) (d : Byte) : (crcByte crc d).toNat = crcIteration crc.toNat d &&& 0xFFFF := by
  have hsteps : crcByte (BitVec.ofNat 16 crc.toNat) d = BitVec.ofNat 16 (crcIteration crc.toNat d) := by
    rw [crcByte, crcSwap_ofNat crc.isLt, crcXorByte_ofNat, crcNibble_ofNat, crcShift12_ofNat, crcShift5_ofNat]
    rfl
  rw [BitVec.ofNat_toNat, BitVec.setWidth_eq] at hsteps
  rw [hsteps, BitVec.toNat_ofNat]
  exact (Nat.and_two_pow_sub_one_eq_mod _ 16).symm

/-- R141: so the two agree from any register on, by induction on the bytes. -/
theorem foldl_crcByte_toNat (s : List Byte) (crc : Word16) :
    (s.foldl crcByte crc).toNat = s.foldl (fun crc d => crcIteration crc d &&& 0xFFFF) crc.toNat := by
  induction s generalizing crc with
  | nil => rfl
  | cons d s ih => rw [List.foldl_cons, List.foldl_cons, ih, crcByte_toNat]

/-- Settles O24: the two checksums agree byte by byte; the untruncated one is evaluated on the nine bytes of R141. -/
theorem checksumTruncation : Obligations.ChecksumTruncation :=
  ⟨fun s => foldl_crcByte_toNat s 0, by decide, by decide, by decide⟩

/-- Settles O23: the masks with `0xFFFF` leave a `u16` as it is. -/
theorem checksumByteStep : Obligations.ChecksumByteStep := by
  have hmask : ∀ c : Word16, c &&& 0xFFFF#16 = c := fun c => BitVec.and_allOnes
  refine ⟨crc16_nil, fun s d => ?_⟩
  simp only [hmask]
  exact crc16_snoc s d

end Sys2Proof.Machine
end

section
/-! PROOF. The checksum as a linear code over GF(2) (R145, R146). The five steps are linear in the register and the
byte, so the checksum is; and a record is valid exactly when the checksum of all its 41 bytes is 0, since the register
takes in its own two bytes and comes to 0 (`crc16_append_eq_zero_iff`). -/

namespace Sys2Proof.Machine

open Sys2Proof.Claims

/-! ## Linearity of the five steps -/

theorem crcSwap_xor (a b : Word16) : crcSwap (a ^^^ b) = crcSwap a ^^^ crcSwap b := by
  ext i hi
  by_cases hlow : i < 8
  · simp [crcSwap, hlow]
  · simp [crcSwap, hlow, BitVec.getLsbD_of_ge, show 16 ≤ 8 + i by omega]

theorem crcXorByte_xor (a b : Word16) (d e : Byte) :
    crcXorByte (a ^^^ b) (d ^^^ e) = crcXorByte a d ^^^ crcXorByte b e := by
  simp only [crcXorByte, BitVec.setWidth_xor]
  ac_rfl

theorem lowByte_xor (a b : Word16) : (a ^^^ b) &&& 0x00FF#16 = (a &&& 0x00FF#16) ^^^ (b &&& 0x00FF#16) := by
  ext i hi
  simp [Bool.and_xor_distrib_right]

theorem crcNibble_xor (a b : Word16) : crcNibble (a ^^^ b) = crcNibble a ^^^ crcNibble b := by
  simp only [crcNibble, lowByte_xor, BitVec.ushiftRight_xor_distrib]
  ac_rfl

theorem crcShift12_xor (a b : Word16) : crcShift12 (a ^^^ b) = crcShift12 a ^^^ crcShift12 b := by
  simp only [crcShift12, BitVec.shiftLeft_xor_distrib]
  ac_rfl

theorem crcShift5_xor (a b : Word16) : crcShift5 (a ^^^ b) = crcShift5 a ^^^ crcShift5 b := by
  simp only [crcShift5, lowByte_xor, BitVec.shiftLeft_xor_distrib]
  ac_rfl

theorem crcByte_xor (a b : Word16) (d e : Byte) :
    crcByte (a ^^^ b) (d ^^^ e) = crcByte a d ^^^ crcByte b e := by
  simp only [crcByte, crcSwap_xor, crcXorByte_xor, crcNibble_xor, crcShift12_xor, crcShift5_xor]

/-- R146: the checksum is linear from any two registers on, by induction on the bytes. -/
theorem foldl_crcByte_xorBytes {s e : List Byte} (hlen : s.length = e.length) (a b : Word16) :
    (xorBytes s e).foldl crcByte (a ^^^ b) = s.foldl crcByte a ^^^ e.foldl crcByte b := by
  induction s generalizing e a b with
  | nil =>
    obtain rfl : e = [] := List.length_eq_zero_iff.1 hlen.symm
    rfl
  | cons d s ih =>
    cases e with
    | nil => cases hlen
    | cons d' e =>
      have htail := ih (Nat.succ.inj hlen) (crcByte a d) (crcByte b d')
      rwa [← crcByte_xor] at htail

theorem crc16_xorBytes {s e : List Byte} (hlen : s.length = e.length) :
    crc16 (xorBytes s e) = crc16 s ^^^ crc16 e :=
  foldl_crcByte_xorBytes hlen 0 0

/-! ## One byte on the register is one-to-one -/

theorem crcSwap_eq_zero {c : Word16} (h : crcSwap c = 0) : c = 0 := by
  obtain ⟨hhigh, hlow⟩ := BitVec.or_eq_zero_iff.1 h
  have hhigh := congrArg BitVec.toNat hhigh
  have hlow := congrArg BitVec.toNat hlow
  rw [BitVec.toNat_ushiftRight, Nat.shiftRight_eq_div_pow] at hhigh
  rw [BitVec.toNat_shiftLeft, Nat.shiftLeft_eq] at hlow
  bv_omega

theorem lowByte_toNat (c : Word16) : (c &&& 0x00FF#16).toNat = c.toNat % 2 ^ 8 :=
  (BitVec.toNat_and ..).trans (Nat.and_two_pow_sub_one_eq_mod _ 8)

theorem crcNibble_eq_zero {c : Word16} (h : crcNibble c = 0) : c = 0 := by
  have h := congrArg BitVec.toNat (BitVec.xor_eq_zero_iff.1 h)
  rw [BitVec.toNat_ushiftRight, lowByte_toNat, Nat.shiftRight_eq_div_pow] at h
  have hle : c.toNat ≤ c.toNat / 2 ^ 4 := h.le.trans (Nat.div_le_div_right (Nat.mod_le _ _))
  exact BitVec.eq_of_toNat_eq (show c.toNat = 0 by omega)

theorem crcShift12_eq_zero {c : Word16} (h : crcShift12 c = 0) : c = 0 := by
  have h := congrArg BitVec.toNat (BitVec.xor_eq_zero_iff.1 h)
  rw [BitVec.toNat_shiftLeft, Nat.shiftLeft_eq] at h
  bv_omega

theorem crcShift5_eq_zero {c : Word16} (h : crcShift5 c = 0) : c = 0 := by
  have h := congrArg BitVec.toNat (BitVec.xor_eq_zero_iff.1 h)
  rw [BitVec.toNat_shiftLeft, lowByte_toNat, Nat.shiftLeft_eq] at h
  bv_omega

theorem crcByte_injective (d : Byte) : Function.Injective fun c => crcByte c d := by
  intro a b (h : crcByte a d = crcByte b d)
  have hzero : crcByte (a ^^^ b) (d ^^^ d) = 0 := by rw [crcByte_xor, h, BitVec.xor_self]; rfl
  have hswap : crcXorByte (crcSwap (a ^^^ b)) (d ^^^ d) = 0 :=
    crcNibble_eq_zero (crcShift12_eq_zero (crcShift5_eq_zero hzero))
  have hsame : crcSwap (a ^^^ b) = 0 := by simpa [crcXorByte] using hswap
  exact BitVec.xor_eq_zero_iff.1 (crcSwap_eq_zero hsame)

/-! ## The register takes in its own bytes -/

theorem crcXorByte_crcSwap_be16 (h l d : Byte) : crcXorByte (crcSwap (be16 h l)) d = be16 l (h ^^^ d) := by
  ext i hi
  by_cases hlow : i < 8
  · simp [crcXorByte, crcSwap, be16, hlow, show 8 + i < 16 by omega]
  · simp [crcXorByte, crcSwap, be16, hlow, show i - 8 < 8 by omega, BitVec.getLsbD_of_ge _ i (Nat.le_of_not_lt hlow)]

/-- The later three steps move the low byte only. -/
theorem crcShift5_be16_zero (l : Byte) : crcShift5 (crcShift12 (crcNibble (be16 l 0#8))) = be16 l 0#8 := by
  have hlow : be16 l 0#8 &&& 0x00FF#16 = 0#16 := by
    apply BitVec.eq_of_toNat_eq
    rw [lowByte_toNat, be16_toNat]
    bv_omega
  have hshift : be16 l 0#8 <<< 12 = 0#16 := by
    apply BitVec.eq_of_toNat_eq
    rw [BitVec.toNat_shiftLeft, be16_toNat, Nat.shiftLeft_eq]
    bv_omega
  simp [crcNibble, crcShift12, crcShift5, hlow, hshift]

/-- When the byte is the register's own high byte, it cancels, and the low byte moves up past every later step. -/
theorem crcByte_be16 (h l : Byte) : crcByte (be16 h l) h = be16 l 0#8 := by
  rw [crcByte, crcXorByte_crcSwap_be16, BitVec.xor_self]
  exact crcShift5_be16_zero l

/-- R74: appending a checksum brings the register to 0, and no other two bytes do. -/
theorem crc16_append_eq_zero_iff (s : List Byte) (h l : Byte) : crc16 (s ++ [h, l]) = 0#16 ↔ crc16 s = be16 h l := by
  have happend : crc16 (s ++ [h, l]) = crcByte (crcByte (crc16 s) h) l := by
    rw [← crc16_snoc, ← crc16_snoc, List.append_assoc]; rfl
  have hlast : crcByte (be16 l 0#8) l = 0#16 := crcByte_be16 l 0#8
  rw [happend, ← hlast, (crcByte_injective l).eq_iff, ← crcByte_be16 h l, (crcByte_injective h).eq_iff]

/-- R74: a record is valid exactly when the checksum of all its 41 bytes, the stored one included, is 0. -/
theorem recordValid_iff_crc16_eq_zero {r : List Byte} (hlen : r.length = 41) :
    recordValid r = true ↔ crc16 r = 0#16 := by
  have hstored : r.drop 39 = [recordByteAt r 39, recordByteAt r 40] := by
    rw [List.drop_eq_getElem_cons (by omega), List.drop_eq_getElem_cons (by omega), List.drop_eq_nil_of_le (by omega)]
    simp [recordByteAt, hlen]
  have hsplit := crc16_append_eq_zero_iff (r.take 39) (recordByteAt r 39) (recordByteAt r 40)
  rw [← hstored, List.take_append_drop] at hsplit
  rw [hsplit]
  exact beq_iff_eq

theorem recordWellFormed_iff (r : List Byte) : recordWellFormed r = true ↔ r.length = 41 := beq_iff_eq

/-- Settles O26: with a valid record the checksum of the sum is that of the error pattern alone, so the sum is valid
exactly when the pattern is, which is to say when its own two checksums are equal. -/
theorem checksumLinear : Obligations.ChecksumLinear := by
  refine ⟨fun a b => crc16_xorBytes, fun r e hr he hvalid => ?_⟩
  rw [recordWellFormed_iff] at hr he
  have hlen : (xorBytes r e).length = 41 := by rw [xorBytes, List.length_zipWith, hr, he]; rfl
  rw [recordValid_iff_crc16_eq_zero hr] at hvalid
  calc recordValid (xorBytes r e) = true
    _ ↔ crc16 (xorBytes r e) = 0#16 := recordValid_iff_crc16_eq_zero hlen
    _ ↔ crc16 e = 0#16 := by rw [crc16_xorBytes (hr.trans he.symm), hvalid, BitVec.zero_xor]
    _ ↔ recordValid e = true := (recordValid_iff_crc16_eq_zero he).symm
    _ ↔ crc16 (e.take 39) = be16 (recordByteAt e 39) (recordByteAt e 40) := beq_iff_eq

/-! ## The zero law -/

theorem crc16_replicate_zero (n : Nat) : crc16 (List.replicate n 0x00#8) = 0#16 := by
  induction n with
  | zero => rfl
  | succ n ih =>
    rw [List.replicate_succ', crc16_snoc, ih]
    rfl

theorem recordByteAt_replicate_zero (n j : Nat) : recordByteAt (List.replicate n 0x00#8) j = 0x00#8 := by
  by_cases h : j < n <;> simp [recordByteAt, h]

theorem readField_recordFields_replicate_zero (n : Nat) (f : Field) :
    readField (recordFields (List.replicate n 0x00#8)) f = 0#32 := by
  simp only [recordFields, recordByteAt_replicate_zero]
  cases f <;> rfl

/-- Settles O25: no step makes a bit out of zero, and an UPDATE reads the all-zero record as any valid one. -/
theorem zeroRecordDecodes : Obligations.ZeroRecordDecodes := by
  refine ⟨by decide, crc16_replicate_zero, fun s cmds rest idle hagenda hcmds hsrc => ?_⟩
  have hlen : (List.replicate 41 0x00#8).length = 41 := List.length_replicate
  have hvalid := (recordValid_iff_crc16_eq_zero hlen).2 (crc16_replicate_zero 41)
  have hwf := (recordWellFormed_iff _).2 hlen
  obtain ⟨t, hrun, -, -, hcommit, -⟩ :=
    updateReadsFrame s cmds [] (List.replicate 41 0x00#8) rest idle hagenda hcmds hsrc (by decide) (by simp) hwf
  have hend := hcommit hvalid
  have hx : t.x = recordFields (List.replicate 41 0x00#8) := congrArg State.x hend
  refine ⟨t, hrun, (congrArg State.phase hend).trans idle, congrArg State.outcome hend, congrArg State.rsp hend,
    congrArg State.responses hend, congrArg State.src hend, fun f => ?_⟩
  rw [hx, readField_recordFields_replicate_zero]

end Sys2Proof.Machine
end

section
/-! PROOF. One-bit and two-bit errors (R147). By linearity an error adds to the checksum of the whole record a word that
depends on the error alone: `bitChecksum n` for bit `n`. No such word is 0 and no two are equal, since zero bytes on the
register are one-to-one and take no single bit of the low byte back into the low byte within a record's length. -/

namespace Sys2Proof.Machine

open Sys2Proof.Claims

/-! ## What a bit in error adds -/

/-- A zero byte on the register. -/
def crcZeroByte (c : Word16) : Word16 := crcByte c 0x00#8

theorem crcZeroByte_injective : Function.Injective crcZeroByte := crcByte_injective 0x00#8

/-- A difference in the register passes through the bytes that follow as it would through zero bytes. -/
theorem foldl_crcByte_xor (s : List Byte) (a b : Word16) :
    s.foldl crcByte (a ^^^ b) = s.foldl crcByte a ^^^ crcZeroByte^[s.length] b := by
  induction s generalizing a b with
  | nil => rfl
  | cons d s ih =>
    have hbyte : crcByte (a ^^^ b) d = crcByte a d ^^^ crcZeroByte b := by
      rw [crcZeroByte, ← crcByte_xor, BitVec.xor_zero]
    rw [List.foldl_cons, hbyte, ih]
    rfl

/-- A byte on the zero register is two zero bytes on a register that holds it. -/
theorem crcByte_zero_left (d : Byte) : crcByte 0#16 d = crcZeroByte (crcZeroByte (d.zeroExtend 16)) := by
  have hfirst : crcZeroByte (d.zeroExtend 16) = be16 d 0#8 := by
    have hlow : be16 0#8 d = d.zeroExtend 16 := by simp [be16]
    rw [← hlow]
    exact crcByte_be16 0#8 d
  have hsecond := crcByte_xor (be16 d 0#8) 0#16 d d
  rw [BitVec.xor_zero, BitVec.xor_self, crcByte_be16 d 0#8] at hsecond
  rw [hfirst, crcZeroByte, hsecond]
  exact (BitVec.zero_xor ..).symm

/-- A change of byte `j`, by induction on the bytes before it. -/
theorem foldl_crcByte_modify_xor (m : Byte) {s : List Byte} {j : Nat} (hj : j < s.length) (c : Word16) :
    (s.modify j (· ^^^ m)).foldl crcByte c =
      s.foldl crcByte c ^^^ crcZeroByte^[s.length + 1 - j] (m.zeroExtend 16) := by
  induction s generalizing j c with
  | nil => cases hj
  | cons d s ih =>
    cases j with
    | zero =>
      have hbyte := crcByte_xor c 0#16 d m
      rw [BitVec.xor_zero, crcByte_zero_left] at hbyte
      rw [List.modify_zero_cons, List.foldl_cons, hbyte, foldl_crcByte_xor]
      rfl
    | succ j =>
      rw [List.modify_succ_cons, List.foldl_cons, ih (Nat.lt_of_succ_lt_succ hj), List.length_cons,
        Nat.add_sub_add_right]
      rfl

/-- What bit `n` of a record in error adds to the checksum of the 41 bytes. -/
def bitChecksum (n : Nat) : Word16 := crcZeroByte^[42 - n / 8] (1#16 <<< (n % 8))

theorem crc16_flipBit {r : List Byte} (hlen : r.length = 41) {n : Nat} (hn : n < 328) :
    crc16 (flipBit n r) = crc16 r ^^^ bitChecksum n := by
  have hmask : ∀ k < 8, (1#8 <<< k).zeroExtend 16 = 1#16 <<< k := by decide
  have hflip := foldl_crcByte_modify_xor (1#8 <<< (n % 8)) (s := r) (j := n / 8) (by omega) 0#16
  rw [hlen, hmask _ (Nat.mod_lt _ (by decide))] at hflip
  exact hflip

theorem length_flipBit (n : Nat) (r : List Byte) : (flipBit n r).length = r.length := List.length_modify ..

/-! ## No bit adds 0, and no two add the same -/

/-- The register and its next `n - 1` values under zero bytes have a bit in the high byte. A
Boolean recursion, so that `decide` evaluates each register once. -/
def staysAboveByte : Nat → Word16 → Bool
  | 0, _ => true
  | n + 1, c => Nat.ble 256 c.toNat && staysAboveByte n (crcZeroByte c)

theorem iterate_crcZeroByte_of_staysAboveByte {m n : Nat} {c : Word16} (h : staysAboveByte n c = true) (hm : m < n) :
    256 ≤ (crcZeroByte^[m] c).toNat := by
  induction n generalizing m c with
  | zero => cases hm
  | succ n ih =>
    obtain ⟨hhere, hlater⟩ := Bool.and_eq_true_iff.1 h
    cases m with
    | zero => exact Nat.le_of_ble_eq_true hhere
    | succ m => exact ih (m := m) hlater (Nat.lt_of_succ_lt_succ hm)

/-- Up to 40 zero bytes, as far apart as two bytes of a record lie, take no bit of the low byte back into it. -/
theorem iterate_crcZeroByte_bit_ge {k m : Nat} (hk : k < 8) (hpos : 0 < m) (hm : m ≤ 40) :
    256 ≤ (crcZeroByte^[m] (1#16 <<< k)).toNat := by
  have hstays : ∀ k < 8, staysAboveByte 40 (crcZeroByte (1#16 <<< k)) = true := by decide
  obtain ⟨m, rfl⟩ := Nat.exists_eq_succ_of_ne_zero hpos.ne'
  exact iterate_crcZeroByte_of_staysAboveByte (m := m) (hstays k hk) hm

theorem bitChecksum_ne_zero (n : Nat) : bitChecksum n ≠ 0#16 := by
  have hbit : ∀ k < 8, 1#16 <<< k ≠ 0#16 := by decide
  have hfixed : crcZeroByte^[42 - n / 8] 0#16 = 0#16 := Function.iterate_fixed (by decide) _
  intro h
  rw [bitChecksum, ← hfixed] at h
  exact hbit _ (Nat.mod_lt _ (by decide)) (crcZeroByte_injective.iterate _ h)

theorem bitChecksum_injective {p q : Nat} (hp : p < 328) (hq : q < 328) (h : bitChecksum p = bitChecksum q) :
    p = q := by
  wlog hle : p / 8 ≤ q / 8 generalizing p q
  · exact (this hq hp h.symm (by omega)).symm
  have hbyte : ∀ k < 8, (1#16 <<< k).toNat < 256 := by decide
  have hsame : ∀ k < 8, ∀ l < 8, 1#16 <<< k = 1#16 <<< l → k = l := by decide
  have hp8 : p % 8 < 8 := Nat.mod_lt _ (by decide)
  have hq8 : q % 8 < 8 := Nat.mod_lt _ (by decide)
  have hapart : crcZeroByte^[q / 8 - p / 8] (1#16 <<< (p % 8)) = 1#16 <<< (q % 8) := by
    have hexponent : 42 - p / 8 = (42 - q / 8) + (q / 8 - p / 8) := by omega
    rw [bitChecksum, hexponent, Function.iterate_add_apply] at h
    exact crcZeroByte_injective.iterate _ h
  rcases Nat.eq_zero_or_pos (q / 8 - p / 8) with hzero | hpos
  · rw [hzero] at hapart
    have hbit := hsame _ hp8 _ hq8 hapart
    omega
  · have hhigh := iterate_crcZeroByte_bit_ge hp8 hpos (by omega)
    rw [hapart] at hhigh
    exact absurd (hbyte _ hq8) (Nat.not_lt.2 hhigh)

/-! ## The errors in a record, and in the marker -/

theorem recordValid_eq_false {r : List Byte} (hlen : r.length = 41) (h : crc16 r ≠ 0#16) : recordValid r = false :=
  Bool.eq_false_iff.2 fun hvalid => h ((recordValid_iff_crc16_eq_zero hlen).1 hvalid)

/-- R147: one bit in error makes a valid record invalid. -/
theorem recordValid_flipBit {r : List Byte} (hlen : r.length = 41) (hvalid : recordValid r = true) {p : Nat}
    (hp : p < 328) : recordValid (flipBit p r) = false := by
  refine recordValid_eq_false ((length_flipBit p r).trans hlen) ?_
  rw [crc16_flipBit hlen hp, (recordValid_iff_crc16_eq_zero hlen).1 hvalid, BitVec.zero_xor]
  exact bitChecksum_ne_zero p

/-- R147: so do two. -/
theorem recordValid_flipBit_flipBit {r : List Byte} (hlen : r.length = 41) (hvalid : recordValid r = true) {p q : Nat}
    (hp : p < 328) (hq : q < 328) (hne : p ≠ q) : recordValid (flipBit q (flipBit p r)) = false := by
  have hone := (length_flipBit p r).trans hlen
  refine recordValid_eq_false ((length_flipBit q _).trans hone) ?_
  rw [crc16_flipBit hone hq, crc16_flipBit hlen hp, (recordValid_iff_crc16_eq_zero hlen).1 hvalid, BitVec.zero_xor]
  exact fun h => hne (bitChecksum_injective hp hq (BitVec.xor_eq_zero_iff.1 h))

/-- An UPDATE that `CHECK` ends DECODED has a valid buffer (R105). -/
theorem State.bufValid_of_decoded {s t : State} (turn : s.decoderMoves) (phase : s.phase = .check)
    (hstep : step s = .next t) (hdecoded : t.outcome = some .decoded) : s.bufValid = true := by
  by_contra hinvalid
  have hbad := step_next_iff.2 (.badChecksum turn phase (Bool.eq_false_iff.2 hinvalid))
  cases hbad.symm.trans hstep
  cases hdecoded

/-- R103: a search passes over a byte that is not the marker, or ends with it. -/
theorem step_search_noMarker {s : State} {i : Fin 6} {b : Byte} {rest : List Byte} (phase : s.phase = .sync i)
    (turn : s.decoderMoves) (src : s.src = b :: rest) (noMarker : b ≠ 0xFA#8) :
    ∃ t, step s = .next t ∧ t.src = rest ∧ t.sync = s.sync ∧ ∀ j, t.phase ≠ .read j := by
  by_cases hi : i.val + 1 < 6
  · exact ⟨_, step_next_iff.2 (.skip i b rest hi turn phase src noMarker), rfl, rfl, nofun⟩
  · obtain rfl : i = 5 := by omega
    exact ⟨_, step_next_iff.2 (.noSync b rest turn phase src noMarker), rfl, rfl, nofun⟩

/-- Settles O27: `CHECK` finds the record with the error invalid, and the search does not find the marker in the byte
with the error. -/
theorem oneAndTwoBitErrorsDetected : Obligations.OneAndTwoBitErrorsDetected := by
  refine ⟨fun s s' t p q phase turn hstep hdecoded phase' turn' hp hq hne herror => ?record,
    fun s i k rest phase turn hk src => ?marker⟩
  case record =>
    have hlen := s.bufBytes_length 41
    have hvalid : recordValid (s.bufBytes 41) = true :=
      (recordValid_bufBytes s).trans (State.bufValid_of_decoded turn phase hstep hdecoded)
    have hinvalid : recordValid (s'.bufBytes 41) = false := by
      rcases herror with hone | htwo
      · rw [hone, recordValid_flipBit hlen hvalid hp]
      · rw [htwo, recordValid_flipBit_flipBit hlen hvalid hp hq hne]
    exact step_next_iff.2 (.badChecksum turn' phase' ((recordValid_bufBytes s').symm.trans hinvalid))
  case marker =>
    have hbit : ∀ k < 8, 0xFA#8 ^^^ (1#8 <<< k) ≠ 0xFA#8 := by decide
    exact step_search_noMarker phase turn src (hbit k hk)

end Sys2Proof.Machine
end

section
/-! PROOF. Field access: the nine GETs (R160 to R169), a run of them (R174), and the round trip of nine words through a
frame (R172). -/

namespace Sys2Proof.Machine

open Sys2Proof.Claims

/-! ## The record of nine words -/

/-- R8, R172: the four bytes of a word, least significant first, are the word again. -/
theorem le32_extractLsb' (w : Word32) :
    le32 (w.extractLsb' 0 8) (w.extractLsb' 8 8) (w.extractLsb' 16 8) (w.extractLsb' 24 8) = w := by
  apply BitVec.eq_of_toNat_eq
  simp only [le32_toNat, BitVec.extractLsb'_toNat, Nat.shiftRight_eq_div_pow]
  bv_omega

/-- R8, R172: the two bytes of a checksum, the high one first, are the checksum again. -/
theorem be16_extractLsb' (c : Word16) : be16 (c.extractLsb' 8 8) (c.extractLsb' 0 8) = c := by
  apply BitVec.eq_of_toNat_eq
  simp only [be16_toNat, BitVec.extractLsb'_toNat, Nat.shiftRight_eq_div_pow]
  bv_omega

theorem length_encodeRecord (h0 h1 h2 : Byte) (d : DecodedState) : (encodeRecord h0 h1 h2 d).length = 41 := rfl

/-- R74: the checksum that ends the record of R172 is that of its body. -/
theorem recordValid_encodeRecord (h0 h1 h2 : Byte) (d : DecodedState) :
    recordValid (encodeRecord h0 h1 h2 d) = true :=
  (recordValid_iff_crc16_eq_zero (length_encodeRecord h0 h1 h2 d)).2
    ((crc16_append_eq_zero_iff _ _ _).2 (be16_extractLsb' _).symm)

theorem gatherFields_readField (d : DecodedState) : gatherFields (readField d) = d := rfl

/-- R57, R172: at each field's offset stand the four bytes of the word that the record was made of. -/
theorem recordFields_encodeRecord (h0 h1 h2 : Byte) (d : DecodedState) :
    recordFields (encodeRecord h0 h1 h2 d) = d := by
  refine (congrArg gatherFields (funext fun f => ?_)).trans (gatherFields_readField d)
  simp only [encodeRecord, recordBody, wordBytes, List.cons_append, List.nil_append]
  cases f <;> exact le32_extractLsb' _

/-- Settles O31: the record is valid, so the UPDATE that reads it commits its fields, which are the nine words. -/
theorem frameRoundTrip : Obligations.FrameRoundTrip := by
  intro s cmds noise rest h0 h1 h2 d idle hagenda hcmds hsrc hnoise hnoMarker
  have hwf := (recordWellFormed_iff _).2 (length_encodeRecord h0 h1 h2 d)
  obtain ⟨t, hrun, -, -, hcommit, -⟩ :=
    updateReadsFrame s cmds noise (encodeRecord h0 h1 h2 d) rest idle hagenda hcmds hsrc hnoise hnoMarker hwf
  have hend := hcommit (recordValid_encodeRecord h0 h1 h2 d)
  have hx : t.x = recordFields (encodeRecord h0 h1 h2 d) := congrArg State.x hend
  exact ⟨t, hrun, (congrArg State.phase hend).trans idle, hx.trans (recordFields_encodeRecord h0 h1 h2 d),
    congrArg State.rsp hend, congrArg State.responses hend, congrArg State.src hend⟩

/-! ## GET -/

/-- R160: the whole effect of a GET on an `IDLE` core. -/
theorem exec_get {s : State} {i : Instr} {f : Field} (idle : s.phase = .idle) (field : getField i = some f) :
    exec i s = .next
      { s with cmds := s.cmds.tail, rsp := readField s.x f, responses := s.responses ++ [readField s.x f] } := by
  rw [exec_eq, field, idle]
  exact State.accept_idle idle _

/-- Settles O15: a GET answers the field that its word names. -/
theorem getResults : Obligations.GetResults := by
  intro s idle
  have hget i f (field : getField i = some f) := exec_get idle field
  exact ⟨hget .getYaw .yaw rfl, hget .getPitch .pitch rfl, hget .getRoll .roll rfl, hget .getRatex .rateX rfl,
    hget .getRatey .rateY rfl, hget .getRatez .rateZ rfl, hget .getAccx .accX rfl, hget .getAccy .accY rfl,
    hget .getAccz .accZ rfl⟩

theorem decodeWord_getWord (f : Field) : decodeWord (getWord f) = .ok (getOfField f) := by
  cases f <;> rfl

theorem getField_getOfField (f : Field) : getField (getOfField f) = some f := by
  cases f <;> rfl

/-- R160: the presented word of a GET is answered in one step. -/
theorem step_get {s : State} {f : Field} {rest : List Byte} (idle : s.phase = .idle) (hagenda : s.agenda = [])
    (hcmds : s.cmds = getWord f :: rest) :
    step s = .next { s with cmds := rest, rsp := readField s.x f, responses := s.responses ++ [readField s.x f] } := by
  rw [step_of_word (State.nextTurn_nil hagenda) idle hcmds (decodeWord_getWord f), State.popTurn_nil hagenda,
    exec_get idle (getField_getOfField f), hcmds]
  rfl

/-- Settles O17: by induction on the GETs, each of which leaves the `x` that the next one reads. -/
theorem getsReadOneGroup : Obligations.GetsReadOneGroup := by
  intro s fs rest idle hagenda hcmds
  induction fs generalizing s with
  | nil =>
    obtain rfl : s.cmds = rest := hcmds
    exact ⟨s, run_zero s, by rw [List.map_nil, List.append_nil]⟩
  | cons f fs ih =>
    obtain ⟨t, hrun, hend⟩ := ih { s with
      cmds := fs.map getWord ++ rest, rsp := readField s.x f, responses := s.responses ++ [readField s.x f] }
      idle hagenda rfl
    refine ⟨t, (run_succ_next (step_get idle hagenda hcmds) _).trans hrun, ?_⟩
    rw [List.map_cons, List.append_cons]
    exact congrArg (fun u : State => { u with rsp := s.rsp }) hend

end Sys2Proof.Machine
end

section
/-! PROOF. What ends a run or follows its end (R201, R203, R214, D30): the words without a command are exactly the
reserved ones of R78, so a step that stops has met one of these; an ended program's step changes nothing at all. -/

namespace Sys2Proof.Machine

open Sys2Proof.Claims

/-! ## What stops a step -/

/-- R78, R79: a word outside the reserved ranges is UPDATE's or a GET's with an index up to 8. -/
theorem exists_encode_of_not_reserved {c : Byte} (h : reservedWord c = false) : ∃ i, encode i = c := by
  have hrange : c.toNat = 0 ∨ ∃ k < 9, c.toNat = 0x10 + k := by
    simp only [reservedWord, Bool.or_eq_false_iff, decide_eq_false_iff_not] at h
    by_cases hzero : c.toNat = 0
    · exact .inl hzero
    · exact .inr ⟨c.toNat - 0x10, by omega, by omega⟩
  obtain hzero | ⟨k, hk, hget⟩ := hrange
  · exact ⟨.update, (BitVec.eq_of_toNat_eq hzero).symm⟩
  · obtain ⟨-, -, hindex, -⟩ := assemblerWords
    obtain ⟨i, -, hword⟩ := Option.map_eq_some_iff.1 (hindex k (decide_eq_true hk))
    refine ⟨i, ?_⟩
    have hor : 0x10 ||| k = 0x10 + k := (Nat.two_pow_add_eq_or_of_lt (i := 4) (by omega) 1).symm
    rw [hword, hor, ← hget, BitVec.ofNat_toNat, BitVec.setWidth_eq]

/-- R78: every word without a command is in one of the ranges that the spec lists as reserved. -/
theorem reservedWord_of_decodeWord_error {c : Byte} {r : Reject} (h : decodeWord c = .error r) :
    reservedWord c = true := by
  by_contra hnot
  obtain ⟨i, rfl⟩ := exists_encode_of_not_reserved (Bool.eq_false_iff.2 hnot)
  rw [decodeWord_encode] at h
  cases h

/-- Settles O5: there is no fault to raise, and what a step refuses is a presented word that has no command. -/
theorem stepStopsOnlyOnReservedWords : Obligations.StepStopsOnlyOnReservedWords := by
  refine fun s => ⟨nofun, fun r hstep => ?_⟩
  obtain ⟨turn, idle, c, rest, hcmds, hword, hr⟩ := step_refused hstep
  exact ⟨idle, turn, c, rest, hcmds, reservedWord_of_decodeWord_error hword, hr⟩

/-! ## After the end of a program -/

/-- D30: an ended program has left the core `IDLE`, no word to present and none scheduled. -/
theorem State.ended_iff (s : State) :
    s.ended = true ↔ s.phase = .idle ∧ s.cmds = [] ∧ s.agenda.any Turn.issuesCommand = false := by
  simp only [State.ended, Bool.and_eq_true, decide_eq_true_eq, List.isEmpty_iff, Bool.not_eq_true', and_assoc]

/-- R214: an `IDLE` core with no word presented and nothing scheduled stays as it is (Assumption 12). -/
theorem step_unasked {s : State} (idle : s.phase = .idle) (hcmds : s.cmds = []) (hagenda : s.agenda = []) :
    step s = .next s := by
  have h := step_next_iff.2 (StepShape.unasked (State.nextTurn_nil hagenda) idle hcmds)
  rwa [State.popTurn_nil hagenda] at h

/-- A state that its own step answers is kept by every run. -/
theorem run_of_step_self {s : State} (hstep : step s = .next s) (n : Nat) : run n s = .next s := by
  induction n with
  | zero => exact run_zero s
  | succ n ih => rw [run_succ_next hstep, ih]

/-- Settles O8: the whole state is kept, and with it the end state and the responses. -/
theorem endedProgramKeepsEndState : Obligations.EndedProgramKeepsEndState := by
  intro s n hended hagenda
  obtain ⟨idle, hcmds, -⟩ := s.ended_iff.1 hended
  exact ⟨s, run_of_step_self (step_unasked idle hcmds hagenda) n, hended, rfl, rfl⟩

end Sys2Proof.Machine
end

section
/-! PROOF. The reset event in any phase (R230, R231). -/

namespace Sys2Proof.Machine

/-- R27, R36: what a reset puts in `x` reads as `FIELD_INIT`, field by field. The reset event writes the same `x` as
the state after reset holds. -/
theorem readField_initial (f : Field) :
    readField DecodedState.initial f = Config.fieldInit (Fin.ofNat 9 (fieldIndex f)) := by
  obtain ⟨-, -, hx⟩ := resetState
  exact hx f

/-- Settles O19: the reset turn is one step whatever the phase, to the popped state with its core reset; the decoder
gets no turn in it, so nothing answers the command in progress and nothing takes from the Byte Source. -/
theorem resetEvent : Obligations.ResetEvent := by
  intro s turn
  refine ⟨s.popTurn.resetCore, step_reset turn, ?phase, ?sync, ?x, ?outcome, ?src, ?cmds, ?responses, ?agenda⟩
  case x =>
    intro f
    rw [State.resetCore_x]
    exact readField_initial f
  all_goals simp

end Sys2Proof.Machine
end
